-- ==== Sys2Proof/Word.lean ====
section
/-! DEFINITION. The words of the GM60 protocol block: bytes, 16-bit values, register addresses and the 13-bit
host transaction word (00_scope.md R7, R8; 30_encoding.md R70). All are unsigned (R14). -/

namespace Sys2Proof

/-- A data byte: register contents, wire byte, transaction data (00_scope.md R7, R8). -/
abbrev Byte := BitVec 8

/-- A 16-bit value: CRC, Register Address (00_scope.md R7). -/
abbrev Half := BitVec 16

/-- A register address of the host register space, 0x0 to 0xF (00_scope.md R8). -/
abbrev RegAddr := BitVec 4

/-- A host transaction word W = (we, a, d) (30_encoding.md R70). -/
abbrev BusWord := BitVec 13

end Sys2Proof
end

