-- ==== Sys2Proof/Config.lean ====
section
/-! DEFINITION. The two parameters of the block (00_scope.md R3, R11, R12). They are fixed for the life of a machine
(60_exceptions.md R226; 93 I24). The block is deterministic for given parameters, with no draw and no oracle
(30_encoding.md R73), so there is no free value here. -/

namespace Sys2Proof

/-- ERR_PRIORITY (00_scope.md R12): the verdict for a non-empty response that fails both checks. -/
inductive ErrPriority where
  | crcFirst
  | ackFirst
deriving DecidableEq, Repr

/-- The parameters a model takes as arguments (00_scope.md R11, R12). -/
structure Config where
  /-- RX_CAP: how many response bytes the block stores (R11). -/
  rxCap : Nat
  /-- ERR_PRIORITY (R12). -/
  errPriority : ErrPriority
deriving DecidableEq, Repr

/-- The range R11 gives RX_CAP. -/
abbrev Config.wf (c : Config) : Prop := 6 ≤ c.rxCap ∧ c.rxCap ≤ 65535

/-- The defaults: RX_CAP = 261 (R11), ERR_PRIORITY = CRC_FIRST (R12). -/
def Config.default : Config := { rxCap := 261, errPriority := .crcFirst }

end Sys2Proof
end

