-- ==== Sys2Proof/Machine/Crc.lean ====
section
/-! DEFINITION. CRC-16/CCITT: polynomial 0x1021, initial value 0x0000, MSB-first, no reflection and no final XOR
(40_crc.md R100-R102, R108), and the two halves of a 16-bit value (00_scope.md R16). -/

namespace Sys2Proof.Machine

/-- hi(x) = x[15:8] (00_scope.md R16). -/
def hi (x : Half) : Byte := x.extractLsb' 8 8

/-- lo(x) = x[7:0] (00_scope.md R16). -/
def lo (x : Half) : Byte := x.extractLsb' 0 8

/-- The 16-bit value of two bytes, high byte first (00_scope.md R14). -/
def pair (h l : Byte) : Half := (h.setWidth 16 <<< 8) ||| l.setWidth 16

/-- One bit of the polynomial division (40_crc.md R102). -/
def shift1 (x : Half) : Half := (x <<< 1) ^^^ (if x.getLsbD 15 then 0x1021 else 0x0000)

/-- `shift1` applied n times (40_crc.md R102). -/
def shiftN : Nat → Half → Half
  | 0, x => x
  | n + 1, x => shiftN n (shift1 x)

/-- Entry i of the CRC table, T[i] = shift1^8(i << 8), computed from its definition (40_crc.md R102). -/
def crcTable (i : Byte) : Half := shiftN 8 (i.setWidth 16 <<< 8)

/-- crc_step (40_crc.md R101). -/
def crcStep (c : Half) (b : Byte) : Half := (c <<< 8) ^^^ crcTable (hi c ^^^ b)

/-- crc16 of a byte sequence, from the initial value 0x0000 (40_crc.md R101). -/
def crc16 (bytes : List Byte) : Half := bytes.foldl crcStep 0x0000

end Sys2Proof.Machine
end

