-- ==== Sys2Proof/Syntax.lean ====
section
/-! DEFINITION. The instructions: one constructor for each instruction of spec/opcode_table.json. The rows that share a
mnemonic (six of CMD_RSVD, four of WR_IGNORED, four of RD_ZERO) are match/mask covers of ONE instruction
(30_encoding.md R75, R77) whose operand says which word of the cover it is (log 8). -/

namespace Sys2Proof

/-- An instruction of the block: a host transaction (30_encoding.md R74, R75, R77) or a wire frame of the opcode table
(R80, R83). The d field of a read is a don't-care (R76) and no operand (log 8). -/
inductive Instr where
  -- command codes, R74 and R75
  | nop
  | crcInit
  | encRead
  | encWrite
  | txRewind
  | decStart
  | decEndRead
  | decEndWrite
  | clrCmderr
  | softReset
  /-- A reserved command code, 0x0A to 0xFF (R75). -/
  | cmdRsvd (code : Byte)
  -- register writes, R77
  | wrCrcDin (d : Byte)
  | wrAddrHi (d : Byte)
  | wrAddrLo (d : Byte)
  | wrParam (d : Byte)
  | wrRxDin (d : Byte)
  | wrPidx (d : Byte)
  -- register reads, R77
  /-- A read of address 0x0, 0x4, 0x8 or 0xF (43_control.md R196). -/
  | rdZero (a : RegAddr)
  | rdStatus
  | rdCrcHi
  | rdCrcLo
  | rdAddrHi
  | rdAddrLo
  | rdParam
  | rdPidx
  | rdTxDout
  | rdTxLeft
  | rdPayload
  | rdRxlenLo
  | rdRxlenHi
  /-- A write to a read-only or reserved address (43_control.md R195). -/
  | wrIgnored (a : RegAddr) (d : Byte)
  -- wire frames
  /-- The read command frame with address A and read count C (R80); its CRC field is a function of A and C. -/
  | cmdRead (a : Half) (c : Byte)
  /-- The write command frame with address A and value V (R80). -/
  | cmdWrite (a : Half) (v : Byte)
  /-- A response frame whose byte 0 is the ack marker 0x02; `rest` holds bytes 1 .. L-1 (R83). -/
  | respAck (rest : List Byte)
deriving DecidableEq, Repr

/-- What the host lays before the block: a transaction word (R70), or the bytes of a wire frame, first on the wire
first (00_scope.md R15). -/
inductive Encoded where
  | bus (w : BusWord)
  | frame (bytes : List Byte)
deriving DecidableEq, Repr

end Sys2Proof
end

