-- ==== Sys2Proof/WellFormed.lean ====
section
/-! DEFINITION. Which terms of Instr stand for words of the opcode table. -/

namespace Sys2Proof

/-- The write addresses that R195 (43_control.md) ignores. -/
def ignoredWriteAddr (a : RegAddr) : Bool :=
  a == 0x1 || a == 0x2 || a == 0x3 || a == 0xA || a == 0xB || a == 0xC || a == 0xD || a == 0xE || a == 0xF

/-- The read addresses that return 0x00 by R196 (43_control.md). -/
def zeroReadAddr (a : RegAddr) : Bool :=
  a == 0x0 || a == 0x4 || a == 0x8 || a == 0xF

/-- Whether an instruction's operands lie in the range its rule gives (30_encoding.md R75; 43_control.md R195, R196). -/
def Instr.wf : Instr → Bool
  | .nop => true
  | .crcInit => true
  | .encRead => true
  | .encWrite => true
  | .txRewind => true
  | .decStart => true
  | .decEndRead => true
  | .decEndWrite => true
  | .clrCmderr => true
  | .softReset => true
  | .cmdRsvd code => decide (0x0A ≤ code.toNat)
  | .wrCrcDin _ => true
  | .wrAddrHi _ => true
  | .wrAddrLo _ => true
  | .wrParam _ => true
  | .wrRxDin _ => true
  | .wrPidx _ => true
  | .rdZero a => zeroReadAddr a
  | .rdStatus => true
  | .rdCrcHi => true
  | .rdCrcLo => true
  | .rdAddrHi => true
  | .rdAddrLo => true
  | .rdParam => true
  | .rdPidx => true
  | .rdTxDout => true
  | .rdTxLeft => true
  | .rdPayload => true
  | .rdRxlenLo => true
  | .rdRxlenHi => true
  | .wrIgnored a _ => ignoredWriteAddr a
  | .cmdRead _ _ => true
  | .cmdWrite _ _ => true
  | .respAck _ => true

/-- Whether the instruction is a host transaction (format "bus" of the opcode table) and no wire frame. -/
def Instr.isBus : Instr → Bool
  | .cmdRead _ _ => false
  | .cmdWrite _ _ => false
  | .respAck _ => false
  | _ => true

end Sys2Proof
end

