-- ==== Sys2Proof/Decode.lean ====
section
/-! DEFINITION. Decoding and encoding: the 13-bit transaction words (30_encoding.md R70-R77), on which decoding is
total (R72), and the wire frames of the opcode table (R80, R81, R83). -/

namespace Sys2Proof

/-- Why bits are no instruction of the opcode table. Only a wire frame can fail: decoding of the 8192 transaction words
is total (30_encoding.md R72). -/
inductive DecodeError where
  /-- No byte at all: no frame. -/
  | emptyFrame
  /-- Byte 0 is neither START 0x7E (R80) nor the ack marker 0x02 (R83). -/
  | unknownFirstByte
  /-- A command frame has exactly 9 bytes (R80). -/
  | wrongFrameLength
  /-- RSVD is not 0x00 or TYPE is not 0x01 (R80). -/
  | wrongFrameConstant
  /-- OP is neither 0x07 nor 0x08 (R82). -/
  | unknownOp
  /-- The last two bytes are not crc16 of bytes 2..6: the block emits no such frame (R80, R81). -/
  | wrongFrameCrc
deriving DecidableEq, Repr

/-- BusWrite(a, d) = (1, a, d) = 0x1000 + a*0x100 + d (R70). -/
def busWrite (a : RegAddr) (d : Byte) : BusWord := 0x1000 ||| (a.setWidth 13 <<< 8) ||| d.setWidth 13

/-- BusRead(a), spelled with d = 0 as the assembler does (R70). -/
def busRead (a : RegAddr) : BusWord := a.setWidth 13 <<< 8

/-- The fields of a transaction word (R70). -/
def busWe (w : BusWord) : Bool := w.getLsbD 12
def busAddr (w : BusWord) : RegAddr := w.extractLsb' 8 4
def busData (w : BusWord) : Byte := w.extractLsb' 0 8

/-- The command codes of a write to CMD (R74), reserved codes by R75. -/
def decodeCommand (d : Byte) : Instr :=
  match d.toNat with
  | 0x00 => .nop
  | 0x01 => .crcInit
  | 0x02 => .encRead
  | 0x03 => .encWrite
  | 0x04 => .txRewind
  | 0x05 => .decStart
  | 0x06 => .decEndRead
  | 0x07 => .decEndWrite
  | 0x08 => .clrCmderr
  | 0x09 => .softReset
  | _ => .cmdRsvd d

/-- A write to register address a (R77; 20_memory.md R55). -/
def decodeWrite (a : RegAddr) (d : Byte) : Instr :=
  match a.toNat with
  | 0x0 => decodeCommand d
  | 0x4 => .wrCrcDin d
  | 0x5 => .wrAddrHi d
  | 0x6 => .wrAddrLo d
  | 0x7 => .wrParam d
  | 0x8 => .wrRxDin d
  | 0x9 => .wrPidx d
  | _ => .wrIgnored a d

/-- A read of register address a (R77; 20_memory.md R55). -/
def decodeRead (a : RegAddr) : Instr :=
  match a.toNat with
  | 0x1 => .rdStatus
  | 0x2 => .rdCrcHi
  | 0x3 => .rdCrcLo
  | 0x5 => .rdAddrHi
  | 0x6 => .rdAddrLo
  | 0x7 => .rdParam
  | 0x9 => .rdPidx
  | 0xA => .rdTxDout
  | 0xB => .rdTxLeft
  | 0xC => .rdPayload
  | 0xD => .rdRxlenLo
  | 0xE => .rdRxlenHi
  | _ => .rdZero a

/-- The instruction of a transaction word: first we, then a, then (for a write to CMD) d (R72). -/
def decodeBus (w : BusWord) : Instr :=
  if busWe w then decodeWrite (busAddr w) (busData w) else decodeRead (busAddr w)

/-- A command frame from the bytes after START (R80, R81). -/
def decodeCommandFrame : List Byte → Except DecodeError Instr
  | [rsvd, op, ty, ah, al, p, ch, cl] =>
    if rsvd != 0x00 || ty != 0x01 then .error .wrongFrameConstant
    else if Machine.pair ch cl != Machine.crc16 [op, ty, ah, al, p] then .error .wrongFrameCrc
    else if op == 0x07 then .ok (.cmdRead (Machine.pair ah al) p)
    else if op == 0x08 then .ok (.cmdWrite (Machine.pair ah al) p)
    else .error .unknownOp
  | _ => .error .wrongFrameLength

/-- A wire frame of the opcode table: a command frame the block emits (R80) or a response frame with the ack marker
0x02 (R83). A response is delimited by the host and carries no length the block reads (R84). -/
def decodeFrame : List Byte → Except DecodeError Instr
  | [] => .error .emptyFrame
  | b :: rest =>
    if b == 0x02 then .ok (.respAck rest)
    else if b == 0x7E then decodeCommandFrame rest
    else .error .unknownFirstByte

/-- Decoding of whatever the host lays before the block. -/
def decode : Encoded → Except DecodeError Instr
  | .bus w => .ok (decodeBus w)
  | .frame bytes => decodeFrame bytes

/-- The 9 bytes of a command frame with operation op (R80, R81). -/
def commandFrameBytes (op : Byte) (a : Half) (p : Byte) : List Byte :=
  let body : List Byte := [op, 0x01, Machine.hi a, Machine.lo a, p]
  [0x7E, 0x00] ++ body ++ [Machine.hi (Machine.crc16 body), Machine.lo (Machine.crc16 body)]

/-- The word or frame of a well-formed instruction (R70, R74, R75, R77, R80, R83). -/
def encode : Instr → Encoded
  | .nop => .bus (busWrite 0x0 0x00)
  | .crcInit => .bus (busWrite 0x0 0x01)
  | .encRead => .bus (busWrite 0x0 0x02)
  | .encWrite => .bus (busWrite 0x0 0x03)
  | .txRewind => .bus (busWrite 0x0 0x04)
  | .decStart => .bus (busWrite 0x0 0x05)
  | .decEndRead => .bus (busWrite 0x0 0x06)
  | .decEndWrite => .bus (busWrite 0x0 0x07)
  | .clrCmderr => .bus (busWrite 0x0 0x08)
  | .softReset => .bus (busWrite 0x0 0x09)
  | .cmdRsvd code => .bus (busWrite 0x0 code)
  | .wrCrcDin d => .bus (busWrite 0x4 d)
  | .wrAddrHi d => .bus (busWrite 0x5 d)
  | .wrAddrLo d => .bus (busWrite 0x6 d)
  | .wrParam d => .bus (busWrite 0x7 d)
  | .wrRxDin d => .bus (busWrite 0x8 d)
  | .wrPidx d => .bus (busWrite 0x9 d)
  | .rdZero a => .bus (busRead a)
  | .rdStatus => .bus (busRead 0x1)
  | .rdCrcHi => .bus (busRead 0x2)
  | .rdCrcLo => .bus (busRead 0x3)
  | .rdAddrHi => .bus (busRead 0x5)
  | .rdAddrLo => .bus (busRead 0x6)
  | .rdParam => .bus (busRead 0x7)
  | .rdPidx => .bus (busRead 0x9)
  | .rdTxDout => .bus (busRead 0xA)
  | .rdTxLeft => .bus (busRead 0xB)
  | .rdPayload => .bus (busRead 0xC)
  | .rdRxlenLo => .bus (busRead 0xD)
  | .rdRxlenHi => .bus (busRead 0xE)
  | .wrIgnored a d => .bus (busWrite a d)
  | .cmdRead a c => .frame (commandFrameBytes 0x07 a c)
  | .cmdWrite a v => .frame (commandFrameBytes 0x08 a v)
  | .respAck rest => .frame (0x02 :: rest)

/-- One match/mask row of the opcode table's format "bus" (R74, R75, R77). -/
structure BusRow where
  mnemonic : String
  pattern : BusWord
  mask : BusWord
deriving DecidableEq, Repr

/-- A word matches a row when (W & mask) = match (R77). -/
def BusRow.selects (r : BusRow) (w : BusWord) : Bool := (w &&& r.mask) == r.pattern

/-- The rows of the command codes and the reserved codes (R74, R75). -/
def commandRows : List BusRow := [
  { mnemonic := "NOP", pattern := 0x1000, mask := 0x1FFF },
  { mnemonic := "CRC_INIT", pattern := 0x1001, mask := 0x1FFF },
  { mnemonic := "ENC_READ", pattern := 0x1002, mask := 0x1FFF },
  { mnemonic := "ENC_WRITE", pattern := 0x1003, mask := 0x1FFF },
  { mnemonic := "TX_REWIND", pattern := 0x1004, mask := 0x1FFF },
  { mnemonic := "DEC_START", pattern := 0x1005, mask := 0x1FFF },
  { mnemonic := "DEC_END_READ", pattern := 0x1006, mask := 0x1FFF },
  { mnemonic := "DEC_END_WRITE", pattern := 0x1007, mask := 0x1FFF },
  { mnemonic := "CLR_CMDERR", pattern := 0x1008, mask := 0x1FFF },
  { mnemonic := "SOFT_RESET", pattern := 0x1009, mask := 0x1FFF },
  { mnemonic := "CMD_RSVD", pattern := 0x100A, mask := 0x1FFE },
  { mnemonic := "CMD_RSVD", pattern := 0x100C, mask := 0x1FFC },
  { mnemonic := "CMD_RSVD", pattern := 0x1010, mask := 0x1FF0 },
  { mnemonic := "CMD_RSVD", pattern := 0x1020, mask := 0x1FE0 },
  { mnemonic := "CMD_RSVD", pattern := 0x1040, mask := 0x1FC0 },
  { mnemonic := "CMD_RSVD", pattern := 0x1080, mask := 0x1F80 }]

/-- The rows of the register writes (R77). -/
def writeRows : List BusRow := [
  { mnemonic := "WR_CRC_DIN", pattern := 0x1400, mask := 0x1F00 },
  { mnemonic := "WR_ADDR_HI", pattern := 0x1500, mask := 0x1F00 },
  { mnemonic := "WR_ADDR_LO", pattern := 0x1600, mask := 0x1F00 },
  { mnemonic := "WR_PARAM", pattern := 0x1700, mask := 0x1F00 },
  { mnemonic := "WR_RX_DIN", pattern := 0x1800, mask := 0x1F00 },
  { mnemonic := "WR_PIDX", pattern := 0x1900, mask := 0x1F00 },
  { mnemonic := "WR_IGNORED", pattern := 0x1100, mask := 0x1F00 },
  { mnemonic := "WR_IGNORED", pattern := 0x1200, mask := 0x1E00 },
  { mnemonic := "WR_IGNORED", pattern := 0x1A00, mask := 0x1E00 },
  { mnemonic := "WR_IGNORED", pattern := 0x1C00, mask := 0x1C00 }]

/-- The rows of the register reads (R77). -/
def readRows : List BusRow := [
  { mnemonic := "RD_ZERO", pattern := 0x0000, mask := 0x1F00 },
  { mnemonic := "RD_STATUS", pattern := 0x0100, mask := 0x1F00 },
  { mnemonic := "RD_CRC_HI", pattern := 0x0200, mask := 0x1F00 },
  { mnemonic := "RD_CRC_LO", pattern := 0x0300, mask := 0x1F00 },
  { mnemonic := "RD_ZERO", pattern := 0x0400, mask := 0x1F00 },
  { mnemonic := "RD_ADDR_HI", pattern := 0x0500, mask := 0x1F00 },
  { mnemonic := "RD_ADDR_LO", pattern := 0x0600, mask := 0x1F00 },
  { mnemonic := "RD_PARAM", pattern := 0x0700, mask := 0x1F00 },
  { mnemonic := "RD_ZERO", pattern := 0x0800, mask := 0x1F00 },
  { mnemonic := "RD_PIDX", pattern := 0x0900, mask := 0x1F00 },
  { mnemonic := "RD_TX_DOUT", pattern := 0x0A00, mask := 0x1F00 },
  { mnemonic := "RD_TX_LEFT", pattern := 0x0B00, mask := 0x1F00 },
  { mnemonic := "RD_PAYLOAD", pattern := 0x0C00, mask := 0x1F00 },
  { mnemonic := "RD_RXLEN_LO", pattern := 0x0D00, mask := 0x1F00 },
  { mnemonic := "RD_RXLEN_HI", pattern := 0x0E00, mask := 0x1F00 },
  { mnemonic := "RD_ZERO", pattern := 0x0F00, mask := 0x1F00 }]

/-- The 42 transaction rows of the opcode table. The decoder does not use them: a claim holds it against them (R72). -/
def busRows : List BusRow := commandRows ++ writeRows ++ readRows

/-- The opcode table's name of an instruction. -/
def Instr.mnemonic : Instr → String
  | .nop => "NOP"
  | .crcInit => "CRC_INIT"
  | .encRead => "ENC_READ"
  | .encWrite => "ENC_WRITE"
  | .txRewind => "TX_REWIND"
  | .decStart => "DEC_START"
  | .decEndRead => "DEC_END_READ"
  | .decEndWrite => "DEC_END_WRITE"
  | .clrCmderr => "CLR_CMDERR"
  | .softReset => "SOFT_RESET"
  | .cmdRsvd _ => "CMD_RSVD"
  | .wrCrcDin _ => "WR_CRC_DIN"
  | .wrAddrHi _ => "WR_ADDR_HI"
  | .wrAddrLo _ => "WR_ADDR_LO"
  | .wrParam _ => "WR_PARAM"
  | .wrRxDin _ => "WR_RX_DIN"
  | .wrPidx _ => "WR_PIDX"
  | .rdZero _ => "RD_ZERO"
  | .rdStatus => "RD_STATUS"
  | .rdCrcHi => "RD_CRC_HI"
  | .rdCrcLo => "RD_CRC_LO"
  | .rdAddrHi => "RD_ADDR_HI"
  | .rdAddrLo => "RD_ADDR_LO"
  | .rdParam => "RD_PARAM"
  | .rdPidx => "RD_PIDX"
  | .rdTxDout => "RD_TX_DOUT"
  | .rdTxLeft => "RD_TX_LEFT"
  | .rdPayload => "RD_PAYLOAD"
  | .rdRxlenLo => "RD_RXLEN_LO"
  | .rdRxlenHi => "RD_RXLEN_HI"
  | .wrIgnored _ _ => "WR_IGNORED"
  | .cmdRead _ _ => "CMD_READ"
  | .cmdWrite _ _ => "CMD_WRITE"
  | .respAck _ => "RESP_ACK"

/-- The low n bytes of w, least significant first. -/
def bytesOfNat : Nat → Nat → List Byte
  | 0, _ => []
  | n + 1, w => BitVec.ofNat 8 w :: bytesOfNat n (w / 256)

/-- The transfer that a row of the opcode table with nbits bits and bit value w stands for: a transaction word where
the row has 9 to 16 bits (13, in whole bytes 16), else the bytes of a wire frame, the first byte in bits 7..0. A
value above the 13 bits of a transaction word is no word, and is laid out as the empty frame (log 7). -/
def Encoded.ofTableWord (nbits w : Nat) : Encoded :=
  if 8 < nbits && nbits ≤ 16 then
    if w < 8192 then .bus (BitVec.ofNat 13 w) else .frame []
  else .frame (bytesOfNat (nbits / 8) w)

/-- The instruction the decoder reads from a table row's bits. -/
def decodeTableWord (nbits w : Nat) : Option Instr :=
  match decode (Encoded.ofTableWord nbits w) with
  | .ok i => some i
  | .error _ => none

end Sys2Proof
end

