-- ==== Sys2Proof/Machine/State.lean ====
section
/-! DEFINITION. The machine's state: the tuple of 10_state.md R20, whole, in its order; beside it the parameters
(log 3) and the model's own fields for what the host does to the block (logs 1, 2, 4). The block has no memory
(00_scope.md R16), so there is no list of memory cells (log 10). -/

namespace Sys2Proof.Machine

/-- result (10_state.md R30): NONE, OK, NO_RESPONSE, CHECKSUM_ERROR. -/
inductive Verdict where
  | none
  | ok
  | noResponse
  | checksumError
deriving DecidableEq, Repr

/-- What a DEC_END judges: a read response or a write response (42_decoder.md R159). -/
inductive FrameKind where
  | read
  | write
deriving DecidableEq, Repr

/-- What the outside world does to the block, in issue order (20_memory.md R51; 70_reset_and_hazards.md R240). -/
inductive HostEvent where
  /-- The host issues a transaction word, or a wire frame of the opcode table (logs 5, 6). -/
  | issue (e : Encoded)
  /-- Power-on (R240). -/
  | powerOn
  /-- The reset input is asserted (R240). -/
  | assertReset
  /-- The reset input is released (R240). -/
  | releaseReset
deriving DecidableEq, Repr

/-- The state. Every field but the last four is the tuple of R20. -/
structure State where
  /-- CRC accumulator (R27). -/
  crc : Half
  /-- ADDR_HI (R22). -/
  addrHi : Byte
  /-- ADDR_LO (R23). -/
  addrLo : Byte
  /-- PARAM (R24). -/
  param : Byte
  /-- PIDX (R25). -/
  pidx : Byte
  /-- Encoded command frame (R37). -/
  tx : Vector Byte 9
  /-- Number of valid bytes in tx: 0 or 9 (R37). -/
  txLen : Nat
  /-- Next byte TX_DOUT returns, 0 to 9 (R37). -/
  txIdx : Nat
  /-- Received response bytes, in arrival order, at most RX_CAP (R39). -/
  rx : List Byte
  /-- RX_OVF (R34). -/
  rxOvf : Bool
  /-- Verdict (R30). -/
  result : Verdict
  /-- ACK_OK (R31). -/
  ackOk : Bool
  /-- CRC_OK (R32). -/
  crcOk : Bool
  /-- LEN_OK (R33). -/
  lenOk : Bool
  /-- Kind of the last DEC_END; NONE is Option.none (R41). -/
  decKind : Option FrameKind
  /-- Payload count latched at DEC_END (R41). -/
  decN : Byte
  /-- CMD_ERR (R35). -/
  cmdErr : Bool
  /-- RX_CAP and ERR_PRIORITY (R11, R12): configuration, which no step changes (log 3). -/
  cfg : Config
  /-- Level of the reset input; true while asserted (R240; log 4). -/
  resetPin : Bool
  /-- What the host has still to do, next first (R51; log 1). -/
  pending : List HostEvent
  /-- The data byte the last event gave the host; absent for a write (30_encoding.md R73; log 2). -/
  rdata : Option Byte
deriving DecidableEq, Repr

/-- No fault exists: no behaviour of the block is a fault or a stuck state (93_implementation_defined.md Part 1), and it
has no traps (60_exceptions.md R216). Nobody raises one. -/
inductive Fault where
deriving DecidableEq, Repr

/-- Why a step has no move. -/
inductive Refusal where
  /-- Raised by an arm of exec whose instruction has no meaning yet. No arm does so in this model. Safe. -/
  | notModelled (mnemonic : String)
  /-- Raised by the step for a transaction while the reset input is asserted: "no move in a model"
  (70_reset_and_hazards.md R240; 93 I22). Safe. -/
  | transactionInReset
  /-- Raised by the step for bits that are no transaction word and no wire frame of the opcode table (log 7). Safe. -/
  | notAnInstruction (why : DecodeError)
deriving DecidableEq, Repr

/-- The machine right after reset (10_state.md R46), at the default parameters, with nothing yet to do (log 1). -/
def State.reset : State :=
  { crc := 0x0000
    addrHi := 0x00
    addrLo := 0x00
    param := 0x01
    pidx := 0x00
    tx := #v[0x00, 0x00, 0x00, 0x00, 0x00, 0x00, 0x00, 0x00, 0x00]
    txLen := 0
    txIdx := 0
    rx := []
    rxOvf := false
    result := .none
    ackOk := false
    crcOk := false
    lenOk := false
    decKind := none
    decN := 0x00
    cmdErr := false
    cfg := Config.default
    resetPin := false
    pending := []
    rdata := none }

end Sys2Proof.Machine
end

