-- ==== Sys2Proof/Machine/Operands.lean ====
section
/-! DEFINITION. The bytes the register reads return and the frame the encoder builds, each as a function of the state or
of its operands. -/

namespace Sys2Proof.Machine

/-- Byte i of a sequence. Every rule that indexes a sequence keeps i in range; beyond it the model answers 0x00, which
no reachable state shows (log 9). -/
def byteAt (bytes : List Byte) (i : Nat) : Byte := bytes[i]?.getD 0x00

/-- S[i..j], indices inclusive, empty when j < i (00_scope.md R15). -/
def subseq (bytes : List Byte) (i j : Nat) : List Byte := (bytes.drop i).take (j + 1 - i)

/-- The frame function (41_encoder.md R121; 30_encoding.md R80). -/
def commandFrame (op ah al p : Byte) : Vector Byte 9 :=
  let c := crc16 [op, 0x01, ah, al, p]
  #v[0x7E, 0x00, op, 0x01, ah, al, p, hi c, lo c]

/-- The byte of tx that TX_DOUT returns next (41_encoder.md R125). -/
def txByte (s : State) : Byte := byteAt s.tx.toList s.txIdx

/-- TX_LEFT = tx_len - tx_idx (10_state.md R38). -/
def txLeft (s : State) : Byte := BitVec.ofNat 8 (s.txLen - s.txIdx)

/-- Whether PIDX stands at a payload byte of an accepted read (42_decoder.md R165, R166). -/
def payloadValid (s : State) : Bool :=
  s.result == .ok && s.decKind == some .read && decide (s.pidx.toNat < s.decN.toNat)

/-- What PAYLOAD returns (42_decoder.md R166). -/
def payloadByte (s : State) : Byte :=
  if payloadValid s then byteAt s.rx (4 + s.pidx.toNat) else 0x00

/-- len(rx) as the 16-bit value of RXLEN_HI and RXLEN_LO (10_state.md R40). -/
def rxLen (s : State) : Half := BitVec.ofNat 16 s.rx.length

end Sys2Proof.Machine
end

