-- ==== Sys2Proof/Machine/Flags.lean ====
section
/-! DEFINITION. STATUS, the checks of a response and the verdict on it. -/

namespace Sys2Proof.Machine

/-- enc(result): the encoding of STATUS.RESULT (10_state.md R30). -/
def encVerdict : Verdict → BitVec 2
  | .none => 0b00
  | .ok => 0b01
  | .noResponse => 0b10
  | .checksumError => 0b11

/-- TX_READY (10_state.md R36). -/
def txReady (s : State) : Bool := decide (s.txIdx < s.txLen)

/-- A flag at bit k of the STATUS byte. -/
def flagBit (b : Bool) (k : Nat) : Byte := (BitVec.ofBool b).setWidth 8 <<< k

/-- STATUS: RESULT in bits 1:0, ACK_OK 2, CRC_OK 3, LEN_OK 4, RX_OVF 5, CMD_ERR 6, TX_READY 7 (10_state.md R29). -/
def statusByte (s : State) : Byte :=
  flagBit (txReady s) 7 ||| flagBit s.cmdErr 6 ||| flagBit s.rxOvf 5 ||| flagBit s.lenOk 4
    ||| flagBit s.crcOk 3 ||| flagBit s.ackOk 2 ||| (encVerdict s.result).setWidth 8

/-- The outcomes of the three checks of a response (42_decoder.md R159). -/
structure Checks where
  ackOk : Bool
  lenOk : Bool
  crcOk : Bool
deriving DecidableEq, Repr

/-- The least acceptable length, `need` (42_decoder.md R152, R153, R159). -/
def needLength : FrameKind → Byte → Nat
  | .read, n => 6 + n.toNat
  | .write, _ => 6

/-- The received CRC, the last two bytes, high byte first (20_memory.md R52; 42_decoder.md R159). -/
def receivedCrc (rx : List Byte) : Half := pair (byteAt rx (rx.length - 2)) (byteAt rx (rx.length - 1))

/-- The bytes a response's CRC covers, R[2 .. L-3] (30_encoding.md R83). -/
def crcRange (rx : List Byte) : List Byte := subseq rx 2 (rx.length - 3)

/-- The check function (42_decoder.md R159). -/
def checks (kind : FrameKind) (n : Byte) (rx : List Byte) (ovf : Bool) : Checks :=
  let ackOk := decide (1 ≤ rx.length) && byteAt rx 0 == 0x02
  let lenOk := !ovf && decide (needLength kind n ≤ rx.length)
  let crcOk := lenOk && crc16 (crcRange rx) == receivedCrc rx
  { ackOk := ackOk, lenOk := lenOk, crcOk := crcOk }

/-- The verdict function (42_decoder.md R160; 90_conflicts.md C3). -/
def verdict (prio : ErrPriority) (kind : FrameKind) (n : Byte) (rx : List Byte) (ovf : Bool) : Verdict :=
  let k := checks kind n rx ovf
  if rx.length = 0 then .noResponse
  else match prio with
    | .crcFirst => if !k.crcOk then .checksumError else if !k.ackOk then .noResponse else .ok
    | .ackFirst => if !k.ackOk then .noResponse else if !k.crcOk then .checksumError else .ok

end Sys2Proof.Machine
end

