-- ==== Sys2Proof/Machine/Ops.lean ====
section
/-! DEFINITION. The shared operations on the state. The block has no trap mechanism, so there is no operation that takes
an exception and none that returns from one (60_exceptions.md R216, R217): an error outcome is a value these
operations write to the STATUS fields. -/

namespace Sys2Proof.Machine

/-- A write ends: it returns nothing to the host (30_encoding.md R70, R73). -/
def noData (s : State) : Host.Outcome State Fault Refusal := .next { s with rdata := none }

/-- A read ends: it returns one data byte to the host (30_encoding.md R70, R73). -/
def answer (b : Byte) (s : State) : Host.Outcome State Fault Refusal := .next { s with rdata := some b }

/-- The operand registers of an encode, as `seta A` and `wr PARAM, p` write them (30_encoding.md R79). -/
def setOperands (a : Half) (p : Byte) (s : State) : State :=
  { s with addrHi := hi a, addrLo := lo a, param := p }

/-- The encode: the frame of the operand registers replaces the TX buffer (41_encoder.md R122, R123, R131). -/
def encodeFrame (op : Byte) (s : State) : State :=
  { s with tx := commandFrame op s.addrHi s.addrLo s.param, txLen := 9, txIdx := 0 }

/-- The verdict and the check flags are cleared (42_decoder.md R155, R157). -/
def clearVerdict (s : State) : State :=
  { s with result := .none, ackOk := false, crcOk := false, lenOk := false }

/-- One received byte arrives: stored where there is room, else dropped with RX_OVF; any verdict is stale
(42_decoder.md R157). -/
def pushRx (s : State) (d : Byte) : State :=
  clearVerdict (if s.rx.length < s.cfg.rxCap then { s with rx := s.rx ++ [d] } else { s with rxOvf := true })

/-- The bytes of a response arrive in order, each by `pushRx` (30_encoding.md R79 rx.bytes; 42_decoder.md R156). -/
def pushRxBytes (s : State) : List Byte → State
  | [] => s
  | d :: ds => pushRxBytes (pushRx s d) ds

/-- DEC_START (42_decoder.md R155). -/
def startDecode (s : State) : State :=
  { clearVerdict s with rx := [], rxOvf := false, decKind := none, decN := 0x00, pidx := 0x00 }

/-- DEC_END of a kind with expected count n: checks, verdict, latches, PIDX (42_decoder.md R161, R162). -/
def endDecode (kind : FrameKind) (n : Byte) (s : State) : State :=
  let k := checks kind n s.rx s.rxOvf
  { s with
    ackOk := k.ackOk, lenOk := k.lenOk, crcOk := k.crcOk
    result := verdict s.cfg.errPriority kind n s.rx s.rxOvf
    decKind := some kind, decN := n, pidx := 0x00 }

/-- Reset of the block: every element of R20 at its value of R46 (43_control.md R193; 70_reset_and_hazards.md R240).
The parameters, the reset input and the host's list are none of them. -/
def resetBlock (s : State) : State :=
  { State.reset with cfg := s.cfg, resetPin := s.resetPin, pending := s.pending, rdata := s.rdata }

/-- Power-on (70_reset_and_hazards.md R240); it leaves the reset input as the outside drives it (log 4). -/
def powerOn (s : State) : Host.Outcome State Fault Refusal := noData (resetBlock s)

/-- The reset input is asserted (70_reset_and_hazards.md R240). -/
def assertReset (s : State) : Host.Outcome State Fault Refusal := noData { resetBlock s with resetPin := true }

/-- The reset input is released; nothing else happens (70_reset_and_hazards.md R240). -/
def releaseReset (s : State) : Host.Outcome State Fault Refusal := noData { s with resetPin := false }

end Sys2Proof.Machine
end

