-- ==== Sys2Proof/Machine/ControlFamily.lean ====
section
/-! DEFINITION. The control family and the no-effect accesses (43_control.md). -/

namespace Sys2Proof.Machine

/-- NOP (R190). -/
def execNop (s : State) : Host.Outcome State Fault Refusal := noData s

/-- CMD_RSVD (R191; 30_encoding.md R75): the code is not captured (60_exceptions.md R210). -/
def execCmdRsvd (_code : Byte) (s : State) : Host.Outcome State Fault Refusal := noData { s with cmdErr := true }

/-- CLR_CMDERR (R192). -/
def execClrCmderr (s : State) : Host.Outcome State Fault Refusal := noData { s with cmdErr := false }

/-- SOFT_RESET (R193). -/
def execSoftReset (s : State) : Host.Outcome State Fault Refusal := noData (resetBlock s)

/-- RD_STATUS (R194): reading clears nothing. -/
def execRdStatus (s : State) : Host.Outcome State Fault Refusal := answer (statusByte s) s

/-- WR_IGNORED (R195). -/
def execWrIgnored (_a : RegAddr) (_d : Byte) (s : State) : Host.Outcome State Fault Refusal := noData s

/-- RD_ZERO (R196). -/
def execRdZero (_a : RegAddr) (s : State) : Host.Outcome State Fault Refusal := answer 0x00 s

end Sys2Proof.Machine
end

