-- ==== Sys2Proof/Machine/CrcFamily.lean ====
section
/-! DEFINITION. The CRC family (40_crc.md). -/

namespace Sys2Proof.Machine

/-- CRC_INIT (R104). -/
def execCrcInit (s : State) : Host.Outcome State Fault Refusal := noData { s with crc := 0x0000 }

/-- WR_CRC_DIN (R105). -/
def execWrCrcDin (d : Byte) (s : State) : Host.Outcome State Fault Refusal := noData { s with crc := crcStep s.crc d }

/-- RD_CRC_HI (R106). -/
def execRdCrcHi (s : State) : Host.Outcome State Fault Refusal := answer (hi s.crc) s

/-- RD_CRC_LO (R107). -/
def execRdCrcLo (s : State) : Host.Outcome State Fault Refusal := answer (lo s.crc) s

end Sys2Proof.Machine
end

