-- ==== Sys2Proof/Machine/DecoderFamily.lean ====
section
/-! DEFINITION. The packet decoder family (42_decoder.md). -/

namespace Sys2Proof.Machine

/-- DEC_START (R155). -/
def execDecStart (s : State) : Host.Outcome State Fault Refusal := noData (startDecode s)

/-- WR_RX_DIN (R157). -/
def execWrRxDin (d : Byte) (s : State) : Host.Outcome State Fault Refusal := noData (pushRx s d)

/-- DEC_END_READ (R161): N = param. -/
def execDecEndRead (s : State) : Host.Outcome State Fault Refusal := noData (endDecode .read s.param s)

/-- DEC_END_WRITE (R162): N = 0 and param is not read. -/
def execDecEndWrite (s : State) : Host.Outcome State Fault Refusal := noData (endDecode .write 0x00 s)

/-- RD_PAYLOAD (R166): pidx always advances, modulo 256. -/
def execRdPayload (s : State) : Host.Outcome State Fault Refusal :=
  answer (payloadByte s) { s with pidx := s.pidx + 1 }

/-- WR_PIDX (R167). -/
def execWrPidx (d : Byte) (s : State) : Host.Outcome State Fault Refusal := noData { s with pidx := d }

/-- RD_PIDX (R168). -/
def execRdPidx (s : State) : Host.Outcome State Fault Refusal := answer s.pidx s

/-- RD_RXLEN_LO (R169). -/
def execRdRxlenLo (s : State) : Host.Outcome State Fault Refusal := answer (lo (rxLen s)) s

/-- RD_RXLEN_HI (R170). -/
def execRdRxlenHi (s : State) : Host.Outcome State Fault Refusal := answer (hi (rxLen s)) s

end Sys2Proof.Machine
end

