-- ==== Sys2Proof/Machine/EncoderFamily.lean ====
section
/-! DEFINITION. The packet encoder family (41_encoder.md). -/

namespace Sys2Proof.Machine

/-- ENC_READ (R122). -/
def execEncRead (s : State) : Host.Outcome State Fault Refusal := noData (encodeFrame 0x07 s)

/-- ENC_WRITE (R123). -/
def execEncWrite (s : State) : Host.Outcome State Fault Refusal := noData (encodeFrame 0x08 s)

/-- TX_REWIND (R127): the held frame is not recomputed. -/
def execTxRewind (s : State) : Host.Outcome State Fault Refusal := noData { s with txIdx := 0 }

/-- RD_TX_DOUT (R125): past the end 0x00 and no state change. -/
def execRdTxDout (s : State) : Host.Outcome State Fault Refusal :=
  if s.txIdx < s.txLen then answer (txByte s) { s with txIdx := s.txIdx + 1 } else answer 0x00 s

/-- RD_TX_LEFT (R126). -/
def execRdTxLeft (s : State) : Host.Outcome State Fault Refusal := answer (txLeft s) s

/-- WR_ADDR_HI (R128). -/
def execWrAddrHi (d : Byte) (s : State) : Host.Outcome State Fault Refusal := noData { s with addrHi := d }

/-- WR_ADDR_LO (R129). -/
def execWrAddrLo (d : Byte) (s : State) : Host.Outcome State Fault Refusal := noData { s with addrLo := d }

/-- WR_PARAM (R130). -/
def execWrParam (d : Byte) (s : State) : Host.Outcome State Fault Refusal := noData { s with param := d }

/-- RD_ADDR_HI (R132). -/
def execRdAddrHi (s : State) : Host.Outcome State Fault Refusal := answer s.addrHi s

/-- RD_ADDR_LO (R133). -/
def execRdAddrLo (s : State) : Host.Outcome State Fault Refusal := answer s.addrLo s

/-- RD_PARAM (R134). -/
def execRdParam (s : State) : Host.Outcome State Fault Refusal := answer s.param s

end Sys2Proof.Machine
end

