-- ==== Sys2Proof/Machine/WireFamily.lean ====
section
/-! DEFINITION. The wire-frame rows of the opcode table. A command frame is what the block emits (30_encoding.md R80,
R82); a response frame is what it is given to judge (R83). Each means the exact expansion R79 gives it in
transactions (logs 5, 6). -/

namespace Sys2Proof.Machine

/-- CMD_READ: `enc.read A, C` (R79), so that the TX buffer holds the frame (R80; 41_encoder.md R122; log 5). -/
def execCmdRead (a : Half) (c : Byte) (s : State) : Host.Outcome State Fault Refusal :=
  noData (encodeFrame 0x07 (setOperands a c s))

/-- CMD_WRITE: `enc.write A, V` (R79), so that the TX buffer holds the frame (R80; 41_encoder.md R123; log 5). -/
def execCmdWrite (a : Half) (v : Byte) (s : State) : Host.Outcome State Fault Refusal :=
  noData (encodeFrame 0x08 (setOperands a v s))

/-- RESP_ACK: `rx.bytes` of the frame (R79): the ack marker and then the other bytes, in arrival order
(42_decoder.md R156, R157; log 6). -/
def execRespAck (rest : List Byte) (s : State) : Host.Outcome State Fault Refusal :=
  noData (pushRxBytes s (0x02 :: rest))

end Sys2Proof.Machine
end

