-- ==== Sys2Proof/Machine/Dispatch.lean ====
section
/-! DEFINITION. The dispatch of an instruction to its meaning, one arm per constructor. -/

namespace Sys2Proof.Machine

/-- The effect of one instruction (30_encoding.md R73). -/
def exec (i : Instr) (s : State) : Host.Outcome State Fault Refusal :=
  match i with
  | .nop => Sys2Proof.Machine.execNop s
  | .crcInit => Sys2Proof.Machine.execCrcInit s
  | .encRead => Sys2Proof.Machine.execEncRead s
  | .encWrite => Sys2Proof.Machine.execEncWrite s
  | .txRewind => Sys2Proof.Machine.execTxRewind s
  | .decStart => Sys2Proof.Machine.execDecStart s
  | .decEndRead => Sys2Proof.Machine.execDecEndRead s
  | .decEndWrite => Sys2Proof.Machine.execDecEndWrite s
  | .clrCmderr => Sys2Proof.Machine.execClrCmderr s
  | .softReset => Sys2Proof.Machine.execSoftReset s
  | .cmdRsvd code => Sys2Proof.Machine.execCmdRsvd code s
  | .wrCrcDin d => Sys2Proof.Machine.execWrCrcDin d s
  | .wrAddrHi d => Sys2Proof.Machine.execWrAddrHi d s
  | .wrAddrLo d => Sys2Proof.Machine.execWrAddrLo d s
  | .wrParam d => Sys2Proof.Machine.execWrParam d s
  | .wrRxDin d => Sys2Proof.Machine.execWrRxDin d s
  | .wrPidx d => Sys2Proof.Machine.execWrPidx d s
  | .rdZero a => Sys2Proof.Machine.execRdZero a s
  | .rdStatus => Sys2Proof.Machine.execRdStatus s
  | .rdCrcHi => Sys2Proof.Machine.execRdCrcHi s
  | .rdCrcLo => Sys2Proof.Machine.execRdCrcLo s
  | .rdAddrHi => Sys2Proof.Machine.execRdAddrHi s
  | .rdAddrLo => Sys2Proof.Machine.execRdAddrLo s
  | .rdParam => Sys2Proof.Machine.execRdParam s
  | .rdPidx => Sys2Proof.Machine.execRdPidx s
  | .rdTxDout => Sys2Proof.Machine.execRdTxDout s
  | .rdTxLeft => Sys2Proof.Machine.execRdTxLeft s
  | .rdPayload => Sys2Proof.Machine.execRdPayload s
  | .rdRxlenLo => Sys2Proof.Machine.execRdRxlenLo s
  | .rdRxlenHi => Sys2Proof.Machine.execRdRxlenHi s
  | .wrIgnored a d => Sys2Proof.Machine.execWrIgnored a d s
  | .cmdRead a c => Sys2Proof.Machine.execCmdRead a c s
  | .cmdWrite a v => Sys2Proof.Machine.execCmdWrite a v s
  | .respAck rest => Sys2Proof.Machine.execRespAck rest s

end Sys2Proof.Machine
end

