-- ==== Sys2Proof/Machine/Step.lean ====
section
/-! DEFINITION. One step of the machine: the next thing the host does to the block, if there is one (20_memory.md R51;
30_encoding.md R73; log 1). -/

namespace Sys2Proof.Machine

/-- One step: the first event of `pending` happens, atomically and completely (00_scope.md R17). With nothing to do the
block waits and nothing changes (log 1). While the reset input is asserted a transaction has no move (R240). -/
def step (s : State) : Host.Outcome State Fault Refusal :=
  match s.pending with
  | [] => .next s
  | .powerOn :: rest => powerOn { s with pending := rest }
  | .assertReset :: rest => assertReset { s with pending := rest }
  | .releaseReset :: rest => releaseReset { s with pending := rest }
  | .issue e :: rest =>
    if s.resetPin then .refused .transactionInReset
    else match decode e with
      | .ok i => exec i { s with pending := rest }
      | .error why => .refused (.notAnInstruction why)

/-- The state with the table row's word (or frame) as the next thing the host issues, the reset input released
(log 1). -/
def State.withFetchWord (s : State) (nbits w : Nat) : State :=
  { s with pending := .issue (Encoded.ofTableWord nbits w) :: s.pending, resetPin := false }

end Sys2Proof.Machine
end

