-- ==== Sys2Proof/Machine/Assembler.lean ====
section
/-! DEFINITION. The assembly forms and the pseudo-instructions of 30_encoding.md R78 and R79: which transaction words a
line stands for. The step does not use them; lines are terms here, not text (log 11). -/

namespace Sys2Proof.Machine

/-- A register of an assembly line: a name of 20_memory.md R55, or a numeric address (R78). -/
inductive AsmReg where
  | cmd | status | crcHi | crcLo | crcDin | addrHi | addrLo | param
  | rxDin | pidx | txDout | txLeft | payload | rxlenLo | rxlenHi
  | num (n : Nat)
deriving DecidableEq, Repr

/-- The command mnemonics (30_encoding.md R74). -/
inductive AsmCommand where
  | nop | crcInit | encRead | encWrite | txRewind
  | decStart | decEndRead | decEndWrite | clrCmderr | softReset
deriving DecidableEq, Repr

/-- The code of a command (30_encoding.md R74). -/
def AsmCommand.code : AsmCommand → Byte
  | .nop => 0x00
  | .crcInit => 0x01
  | .encRead => 0x02
  | .encWrite => 0x03
  | .txRewind => 0x04
  | .decStart => 0x05
  | .decEndRead => 0x06
  | .decEndWrite => 0x07
  | .clrCmderr => 0x08
  | .softReset => 0x09

/-- The address of a register (20_memory.md R55, R78). DESIGN CHOICE: a number above 15, which R78 does not name, has no
address, so its line is rejected (log 11). -/
def AsmReg.addr : AsmReg → Option RegAddr
  | .cmd => some 0x0
  | .status => some 0x1
  | .crcHi => some 0x2
  | .crcLo => some 0x3
  | .crcDin => some 0x4
  | .addrHi => some 0x5
  | .addrLo => some 0x6
  | .param => some 0x7
  | .rxDin => some 0x8
  | .pidx => some 0x9
  | .txDout => some 0xA
  | .txLeft => some 0xB
  | .payload => some 0xC
  | .rxlenLo => some 0xD
  | .rxlenHi => some 0xE
  | .num n => if n < 16 then some (BitVec.ofNat 4 n) else none

/-- An imm8; a number outside 0-255 is rejected (R78). -/
def imm8 (n : Nat) : Option Byte := if n < 256 then some (BitVec.ofNat 8 n) else none

/-- A line: the two transactions (R78) and the pseudo-instructions (R79). -/
inductive AsmLine where
  | wr (r : AsmReg) (n : Nat)
  /-- `wr CMD, NAME`: a command's mnemonic in place of imm8 (R78). -/
  | wrCommand (c : AsmCommand)
  | rd (r : AsmReg)
  | cmd (c : AsmCommand)
  | crcBytes (bytes : List Nat)
  | rxBytes (bytes : List Nat)
  | seta (a : Nat)
  | encRead (a c : Nat)
  | encWrite (a v : Nat)
deriving DecidableEq, Repr

/-- `wr REG, imm8` (R70, R78). -/
def assembleWrite (r : AsmReg) (n : Nat) : Option BusWord :=
  match r.addr, imm8 n with
  | some a, some d => some (busWrite a d)
  | _, _ => none

/-- `wr CMD, code(NAME)` (R74, R78, R79). -/
def commandWord (c : AsmCommand) : BusWord := busWrite 0x0 c.code

/-- A run of writes of bytes to one register, in order (R79 crc.bytes, rx.bytes). DESIGN CHOICE: the empty list, to which
R79 gives no expansion (its form has at least b0), is accepted as no transaction at all (log 11). -/
def assembleWrites (r : AsmReg) : List Nat → Option (List BusWord)
  | [] => some []
  | n :: ns =>
    match assembleWrite r n, assembleWrites r ns with
    | some w, some ws => some (w :: ws)
    | _, _ => none

/-- The two writes of `seta A`, A in 0..0xFFFF (R79). -/
def setaWords (a : Half) : List BusWord := [busWrite 0x5 (hi a), busWrite 0x6 (lo a)]

/-- The transactions of `enc.read` and `enc.write` for the command code (R79). -/
def encodeWords (code : Byte) (a : Half) (p : Byte) : List BusWord :=
  setaWords a ++ [busWrite 0x7 p, busWrite 0x0 code]

/-- The exact expansion of a line (R78, R79); none where the assembler rejects it. R78 gives the rejection of an imm8
outside 0-255. DESIGN CHOICE: an A above 0xFFFF is rejected too (log 11). -/
def AsmLine.assemble : AsmLine → Option (List BusWord)
  | .wr r n => (assembleWrite r n).map fun w => [w]
  | .rd r => r.addr.map fun a => [busRead a]
  | .wrCommand c => some [commandWord c]
  | .cmd c => some [commandWord c]
  | .crcBytes bytes => assembleWrites .crcDin bytes
  | .rxBytes bytes => assembleWrites .rxDin bytes
  | .seta a => if a < 65536 then some (setaWords (BitVec.ofNat 16 a)) else none
  | .encRead a c =>
    match imm8 c with
    | some p => if a < 65536 then some (encodeWords AsmCommand.encRead.code (BitVec.ofNat 16 a) p) else none
    | none => none
  | .encWrite a v =>
    match imm8 v with
    | some p => if a < 65536 then some (encodeWords AsmCommand.encWrite.code (BitVec.ofNat 16 a) p) else none
    | none => none

/-- The host issues transaction words in order (20_memory.md R51). -/
def issueWords (ws : List BusWord) : List HostEvent := ws.map fun w => .issue (.bus w)

/-- The writes of received bytes to RX_DIN, in arrival order (R79 rx.bytes; 20_memory.md R65). -/
def rxWords (bytes : List Byte) : List BusWord := bytes.map (busWrite 0x8)

end Sys2Proof.Machine
end

