-- ==== Sys2Proof/Machine/HostProtocol.lean ====
section
/-! DEFINITION. One exchange as the host performs it on the block (60_exceptions.md R224, R225): the transactions it
issues, given what the two reads of the channel deliver, and what it does with the bytes the block answers. The waits
(AwaitingDrain, T_SETTLE, T_RETRY) and the channel are the host's and have no effect on the block (R219, R223; log 12).
The step does not use this file. -/

namespace Sys2Proof.Machine

/-- The host issues the words next, in order, and each takes its step (20_memory.md R51). -/
def runWords (ws : List BusWord) (s : State) : Host.Outcome State Fault Refusal :=
  Host.Core.run Sys2Proof.core ws.length { s with pending := issueWords ws ++ s.pending }

/-- The host issues writes; the block they leave, none where one has no move. -/
def writeWords (ws : List BusWord) (s : State) : Option State :=
  match runWords ws s with
  | .next t => some t
  | _ => none

/-- The host issues reads; the bytes they answer, in order, and the block they leave, none where one has no move or
answers no byte. -/
def readWords : List BusWord → State → Option (List Byte × State)
  | [], s => some ([], s)
  | w :: ws, s =>
    match writeWords [w] s with
    | none => none
    | some t =>
      match t.rdata, readWords ws t with
      | some b, some (bs, u) => some (b :: bs, u)
      | _, _ => none

/-- One exchange: its kind, the operands of its command frame, and the bytes the first read of the channel and the
retry deliver (R224). -/
structure Exchange where
  kind : FrameKind
  addr : Half
  param : Byte
  first : List Byte
  retry : List Byte
deriving DecidableEq, Repr

/-- ENC_READ or ENC_WRITE (R224 Idle). -/
def Exchange.encodeCode (x : Exchange) : Byte :=
  match x.kind with
  | .read => AsmCommand.encRead.code
  | .write => AsmCommand.encWrite.code

/-- DEC_END_READ or DEC_END_WRITE (R224 Validating). -/
def Exchange.judgeCode (x : Exchange) : Byte :=
  match x.kind with
  | .read => AsmCommand.decEndRead.code
  | .write => AsmCommand.decEndWrite.code

/-- The bytes the block is given: the retry only when the first read gave no bytes (R225). -/
def Exchange.response (x : Exchange) : List Byte := if x.first.isEmpty then x.retry else x.first

/-- Idle: the operands and the encode (R224). -/
def Exchange.idleWords (x : Exchange) : List BusWord := encodeWords x.encodeCode x.addr x.param

/-- Sending: nine reads of TX_DOUT (R224). -/
def txDoutReads : List BusWord := List.replicate 9 (busRead 0xA)

/-- Reading, first attempt: DEC_START and the bytes the channel delivered (R224). -/
def Exchange.firstWords (x : Exchange) : List BusWord :=
  busWrite 0x0 AsmCommand.decStart.code :: rxWords x.first

/-- The two reads of RXLEN on which the retry is decided (R224 Reading(retry)). -/
def rxLenReads : List BusWord := [busRead 0xD, busRead 0xE]

/-- Validating: DEC_END (R224). -/
def Exchange.decEndWord (x : Exchange) : BusWord := busWrite 0x0 x.judgeCode

/-- Validating: the read of STATUS (R224). -/
def statusRead : BusWord := busRead 0x1

/-- Idle and Sending (R224). -/
def Exchange.sendWords (x : Exchange) : List BusWord := x.idleWords ++ txDoutReads

/-- Reading, first attempt and retry (R224, R225), the retry decided by the bytes delivered; `Exchange.receive` decides
it by RXLEN. -/
def Exchange.receiveWords (x : Exchange) : List BusWord :=
  x.firstWords ++ rxLenReads ++ (if x.first.isEmpty then rxWords x.retry else [])

/-- Validating (R224). -/
def Exchange.judgeWords (x : Exchange) : List BusWord := [x.decEndWord, statusRead]

/-- The exchange up to the read of STATUS (R224); `Exchange.perform` goes on from there. -/
def Exchange.words (x : Exchange) : List BusWord := x.sendWords ++ x.receiveWords ++ x.judgeWords

/-- Where an exchange ends: Success, or Failed with its category (R224; R227). -/
inductive ExchangeEnd where
  | success
  | noResponse
  | checksumError
deriving DecidableEq, Repr

/-- The branch on s[1:0] of the STATUS byte (R224 Success, Failed). R224 gives 00 (NONE) no branch, and no DEC_END
leaves it (42_decoder.md R160). -/
def branchOf (status : Byte) : Option ExchangeEnd :=
  match (status.extractLsb' 0 2).toNat with
  | 1 => some .success
  | 2 => some .noResponse
  | 3 => some .checksumError
  | _ => none

/-- What the host reads after the branch: on Success of a read, N payload bytes by rd PAYLOAD; a write returns nothing,
and a failed exchange nothing either (R224; R226 "read the payload only when RESULT = 01"). -/
def Exchange.payloadWords (x : Exchange) : ExchangeEnd → List BusWord
  | .success =>
    match x.kind with
    | .read => List.replicate x.param.toNat (busRead 0xC)
    | .write => []
  | .noResponse => []
  | .checksumError => []

/-- Idle and Sending: the bytes the host writes to the channel, and the block (R224). -/
def Exchange.send (x : Exchange) (s : State) : Option (List Byte × State) :=
  match writeWords x.idleWords s with
  | some t => readWords txDoutReads t
  | none => none

/-- Reading: the first attempt, and the retry if RXLEN_LO = 0 and RXLEN_HI = 0; the bytes received, and the block
(R224, R225). -/
def Exchange.receive (x : Exchange) (s : State) : Option (List Byte × State) :=
  match writeWords x.firstWords s with
  | none => none
  | some t =>
    match readWords rxLenReads t with
    | some ([l, h], u) =>
      if l = 0x00 ∧ h = 0x00 then (writeWords (rxWords x.retry) u).map fun v => (x.first ++ x.retry, v)
      else some (x.first, u)
    | _ => none

/-- Validating: the STATUS byte, and the block (R224). -/
def Exchange.judge (x : Exchange) (s : State) : Option (Byte × State) :=
  match writeWords [x.decEndWord] s with
  | none => none
  | some t =>
    match readWords [statusRead] t with
    | some ([b], u) => some (b, u)
    | _ => none

/-- What an exchange gives its caller: its end, the payload, and the frame sent and the bytes received that accompany an
error (R224, R227); and the block it leaves. -/
structure ExchangeResult where
  ending : ExchangeEnd
  payload : List Byte
  sent : List Byte
  received : List Byte
  block : State
deriving DecidableEq, Repr

/-- Success and Failed: the branch on the STATUS byte and what follows it (R224). -/
def Exchange.finish (x : Exchange) (sent received : List Byte) (status : Byte) (s : State) : Option ExchangeResult :=
  match branchOf status with
  | none => none
  | some e =>
    (readWords (x.payloadWords e) s).map fun p =>
      { ending := e, payload := p.1, sent := sent, received := received, block := p.2 }

/-- The whole exchange, from Idle to Success or Failed (R224); none where the block has no move. -/
def Exchange.perform (x : Exchange) (s : State) : Option ExchangeResult :=
  match x.send s with
  | none => none
  | some (sent, t) =>
    match x.receive t with
    | none => none
    | some (received, u) =>
      match x.judge u with
      | none => none
      | some (status, v) => x.finish sent received status v

end Sys2Proof.Machine
end

