-- ==== Sys2Proof/Safety.lean ====
section
/-! DEFINITION. The block's invariants, what a step that has a move is, and how the spec writes words. -/

namespace Sys2Proof.Machine

/-- TX buffer: 0 ≤ tx_idx ≤ tx_len and tx_len is 0 or 9 (10_state.md R37, R47). -/
abbrev State.TxInv (s : State) : Prop := s.txIdx ≤ s.txLen ∧ (s.txLen = 0 ∨ s.txLen = 9)

/-- RX buffer: len(rx) ≤ RX_CAP, and rx is full once a byte was dropped (10_state.md R39, R47). -/
abbrev State.RxInv (s : State) : Prop :=
  s.rx.length ≤ s.cfg.rxCap ∧ (s.rxOvf = true → s.rx.length = s.cfg.rxCap)

/-- Verdict and check flags (10_state.md R47). -/
abbrev State.VerdictInv (s : State) : Prop :=
  (s.result = .none → s.ackOk = false ∧ s.crcOk = false ∧ s.lenOk = false)
    ∧ (s.crcOk = true → s.lenOk = true)
    ∧ (s.result = .ok → s.crcOk = true ∧ s.ackOk = true)
    ∧ (s.decKind = some .write → s.decN = 0x00)

/-- The invariants of 10_state.md R47, with the range of RX_CAP (00_scope.md R11). -/
abbrev State.Inv (s : State) : Prop := s.cfg.wf ∧ s.TxInv ∧ s.RxInv ∧ s.VerdictInv

/-- An accepted read response holds its whole payload before its CRC: 3 + dec_n ≤ L - 3 (corner case of 42_decoder.md
R166). -/
abbrev State.PayloadInv (s : State) : Prop :=
  s.result = .ok → s.decKind = some .read → 6 + s.decN.toNat ≤ s.rx.length

/-- The step has a move: it answers a next state. -/
def moves (s : State) : Prop := ∃ t, step s = .next t

/-- W = base | d, as the spec writes the words of a register access (30_encoding.md R70, R77). -/
def wordOf (base : BusWord) (d : Byte) : BusWord := base ||| d.setWidth 13

end Sys2Proof.Machine
end

