-- ==== Sys2Proof/Certificates/Slice0/Obligations.lean ====
section
/-! DEFINITION. The statements for the provers. -/

open Sys2Proof Sys2Proof.Machine

/-- R101: the step function and the sequence function, with 16-bit masking after every step, over the table T of R102. -/
def Obligations.CrcFollowsTheTableUpdate : Prop :=
  (∀ (c : Half) (b : Byte),
      (c.toNat >>> 8) ^^^ b.toNat < 256
      ∧ (crcStep c b).toNat
          = ((c.toNat <<< 8) ^^^ (crcTable (BitVec.ofNat 8 ((c.toNat >>> 8) ^^^ b.toNat))).toNat) % 65536)
    ∧ crc16 [] = 0x0000
    ∧ ∀ (S : List Byte) (d : Byte), crc16 (S ++ [d]) = crcStep (crc16 S) d

/-- R102, its definition of T (the listing of 256 entries is a test). -/
def Obligations.CrcTableIsShiftedEightTimes : Prop :=
  ∀ i : Byte,
    (crcTable i).toNat
      = (fun x : Nat => (if x / 32768 % 2 = 1 then (2 * x) ^^^ 0x1021 else 2 * x) % 65536)^[8] (256 * i.toNat)

/-- R103 property 1, which the spec derives from R101 and R102. -/
def Obligations.CrcStepIsBitSerialDivision : Prop :=
  (∀ (c : Half) (b : Byte), crcStep c b = shiftN 8 (c ^^^ (b.setWidth 16 <<< 8)))
    ∧ ∀ S : List Byte, crc16 S = S.foldl (fun (c : Half) (b : Byte) => shiftN 8 (c ^^^ (b.setWidth 16 <<< 8))) 0x0000

/-- R103 property 2 and the verification of 95_test_vectors.md L1.3. -/
def Obligations.CrcVerifiesExactlyItsOwnChecksum : Prop :=
  ∀ (S : List Byte) (h l : Byte), crc16 (S ++ [h, l]) = 0x0000 ↔ pair h l = crc16 S

/-- R103 property 3, the required single-bit-error property. -/
def Obligations.CrcDetectsEverySingleBitFlip : Prop :=
  ∀ (S : List Byte) (i k : Nat) (_ : i < S.length), k < 8 →
    crc16 (S.set i (S[i] ^^^ (1 <<< k))) ≠ crc16 S

/-- R104-R107: each word, the one next state it gives from every state, and so its frame. -/
def Obligations.CrcFamilyEffects : Prop :=
  ∀ (s : State) (d : Byte),
    decodeBus 0x1001 = .crcInit
    ∧ exec .crcInit s = .next { s with crc := 0x0000, rdata := none }
    ∧ decodeBus (wordOf 0x1400 d) = .wrCrcDin d
    ∧ exec (.wrCrcDin d) s = .next { s with crc := crcStep s.crc d, rdata := none }
    ∧ decodeBus (wordOf 0x0200 d) = .rdCrcHi
    ∧ exec .rdCrcHi s = .next { s with rdata := some (BitVec.ofNat 8 (s.crc.toNat / 256)) }
    ∧ decodeBus (wordOf 0x0300 d) = .rdCrcLo
    ∧ exec .rdCrcLo s = .next { s with rdata := some (BitVec.ofNat 8 (s.crc.toNat % 256)) }

/-- The last sentence of R105, over the runs of log 1. -/
def Obligations.CrcDinAfterInitComputesCrc16 : Prop :=
  ∀ (s : State) (S : List Byte), s.resetPin = false →
    runWords ((0x1001 : BusWord) :: S.map (wordOf 0x1400)) s = .next { s with crc := crc16 S, rdata := none }

/-- R27, over every event of the model (logs 1, 4, 5, 6). -/
def Obligations.CrcAccumulatorHasThreeWriters : Prop :=
  ∀ (s t : State) (ev : HostEvent) (rest : List HostEvent),
    s.pending = ev :: rest → step s = .next t → t.crc ≠ s.crc →
      ev = .issue (.bus 0x1001) ∨ (∃ d : Byte, ev = .issue (.bus (wordOf 0x1400 d)))
        ∨ ev = .issue (.bus 0x1009) ∨ ev = .powerOn ∨ ev = .assertReset

/-- R258: the standalone accumulator is not shared with the codec. -/
def Obligations.CodecNeverSeesTheCrcAccumulator : Prop :=
  ∀ (s t : State) (i : Instr) (c : Half), i ≠ .rdCrcHi → i ≠ .rdCrcLo → exec i s = .next t →
    ∃ c' : Half, exec i { s with crc := c } = .next { t with crc := c' }

/-- R122 and R123 with the byte list of R80; every A and every C or V is encoded as given. -/
def Obligations.EncodeBuildsTheCommandFrame : Prop :=
  ∀ s : State,
    decodeBus 0x1002 = .encRead
    ∧ (∃ f : Vector Byte 9,
        f.toList = [0x7E, 0x00, 0x07, 0x01, s.addrHi, s.addrLo, s.param,
          hi (crc16 [0x07, 0x01, s.addrHi, s.addrLo, s.param]), lo (crc16 [0x07, 0x01, s.addrHi, s.addrLo, s.param])]
        ∧ exec .encRead s = .next { s with tx := f, txLen := 9, txIdx := 0, rdata := none })
    ∧ decodeBus 0x1003 = .encWrite
    ∧ (∃ f : Vector Byte 9,
        f.toList = [0x7E, 0x00, 0x08, 0x01, s.addrHi, s.addrLo, s.param,
          hi (crc16 [0x08, 0x01, s.addrHi, s.addrLo, s.param]), lo (crc16 [0x08, 0x01, s.addrHi, s.addrLo, s.param])]
        ∧ exec .encWrite s = .next { s with tx := f, txLen := 9, txIdx := 0, rdata := none })

/-- R125-R127, for every state that meets the TX invariant of R37. -/
def Obligations.TxReadOutEffects : Prop :=
  ∀ (s : State) (d : Byte), s.TxInv →
    decodeBus (wordOf 0x0A00 d) = .rdTxDout
    ∧ (s.txIdx < s.txLen → ∃ b : Byte, s.tx.toList[s.txIdx]? = some b
        ∧ exec .rdTxDout s = .next { s with txIdx := s.txIdx + 1, rdata := some b })
    ∧ (s.txIdx = s.txLen → exec .rdTxDout s = .next { s with rdata := some 0x00 })
    ∧ decodeBus (wordOf 0x0B00 d) = .rdTxLeft
    ∧ (∃ b : Byte, b.toNat + s.txIdx = s.txLen ∧ exec .rdTxLeft s = .next { s with rdata := some b })
    ∧ decodeBus 0x1004 = .txRewind
    ∧ exec .txRewind s = .next { s with txIdx := 0, rdata := none }

/-- The example of R125 for every address, parameter and number of reads, over the runs of log 1. -/
def Obligations.EncodedFrameReadsOutInWireOrder : Prop :=
  ∀ (s : State) (k : Nat), s.resetPin = false →
    (∃ t, runWords ((0x1002 : BusWord) :: List.replicate (k + 1) 0x0A00) s = .next t
      ∧ t.rdata = some ((commandFrameBytes 0x07 (pair s.addrHi s.addrLo) s.param)[k]?.getD 0x00)
      ∧ t.txIdx = min (k + 1) 9)
    ∧ (∃ t, runWords ((0x1003 : BusWord) :: List.replicate (k + 1) 0x0A00) s = .next t
      ∧ t.rdata = some ((commandFrameBytes 0x08 (pair s.addrHi s.addrLo) s.param)[k]?.getD 0x00)
      ∧ t.txIdx = min (k + 1) 9)

/-- The corner case of R127 and R131: operands are sampled at the encode, and tx is not recomputed. -/
def Obligations.RewindReplaysTheSentFrame : Prop :=
  ∀ (s : State) (d1 d2 d3 b : Byte) (k : Nat), s.resetPin = false → s.txLen = 9 → s.tx.toList[k]? = some b →
    ∃ t, runWords ([wordOf 0x1500 d1, wordOf 0x1600 d2, wordOf 0x1700 d3, 0x1004] ++ List.replicate (k + 1) 0x0A00) s
        = .next t
      ∧ t.rdata = some b ∧ t.txIdx = k + 1 ∧ t.tx = s.tx

/-- R128-R130 and R132-R134. -/
def Obligations.OperandRegisterEffects : Prop :=
  (∀ (s : State) (d : Byte),
      decodeBus (wordOf 0x1500 d) = .wrAddrHi d
      ∧ exec (.wrAddrHi d) s = .next { s with addrHi := d, rdata := none }
      ∧ decodeBus (wordOf 0x1600 d) = .wrAddrLo d
      ∧ exec (.wrAddrLo d) s = .next { s with addrLo := d, rdata := none }
      ∧ decodeBus (wordOf 0x1700 d) = .wrParam d
      ∧ exec (.wrParam d) s = .next { s with param := d, rdata := none }
      ∧ decodeBus (wordOf 0x0500 d) = .rdAddrHi
      ∧ exec .rdAddrHi s = .next { s with rdata := some s.addrHi }
      ∧ decodeBus (wordOf 0x0600 d) = .rdAddrLo
      ∧ exec .rdAddrLo s = .next { s with rdata := some s.addrLo }
      ∧ decodeBus (wordOf 0x0700 d) = .rdParam
      ∧ exec .rdParam s = .next { s with rdata := some s.param })
    ∧ State.reset.addrHi = 0x00 ∧ State.reset.addrLo = 0x00 ∧ State.reset.param = 0x01

/-- R55 and R60 for the four registers that store what is written. -/
def Obligations.WrittenOperandReadsBack : Prop :=
  ∀ (s : State) (a : RegAddr) (d e : Byte), s.resetPin = false → a = 0x5 ∨ a = 0x6 ∨ a = 0x7 ∨ a = 0x9 →
    ∃ t, runWords [wordOf (0x1000 ||| (a.setWidth 13 <<< 8)) d, wordOf (a.setWidth 13 <<< 8) e] s = .next t
      ∧ t.rdata = some d

/-- R155 and R157, for every RX_CAP. -/
def Obligations.DecStartAndRxDinEffects : Prop :=
  ∀ (s : State) (d : Byte),
    decodeBus 0x1005 = .decStart
    ∧ exec .decStart s = .next { s with
        rx := [], rxOvf := false, result := .none, ackOk := false, crcOk := false, lenOk := false,
        decKind := none, decN := 0x00, pidx := 0x00, rdata := none }
    ∧ decodeBus (wordOf 0x1800 d) = .wrRxDin d
    ∧ (s.rx.length < s.cfg.rxCap → exec (.wrRxDin d) s = .next { s with
        rx := s.rx ++ [d], result := .none, ackOk := false, crcOk := false, lenOk := false, rdata := none })
    ∧ (s.cfg.rxCap ≤ s.rx.length → exec (.wrRxDin d) s = .next { s with
        rxOvf := true, result := .none, ackOk := false, crcOk := false, lenOk := false, rdata := none })

/-- R39 and R157, for every list and every RX_CAP, over the runs of log 1. -/
def Obligations.ReceivedBytesAreStoredInOrder : Prop :=
  ∀ (s : State) (bytes : List Byte), s.resetPin = false →
    runWords ((0x1005 : BusWord) :: bytes.map (wordOf 0x1800)) s = .next { s with
      rx := bytes.take s.cfg.rxCap, rxOvf := decide (s.cfg.rxCap < bytes.length),
      result := .none, ackOk := false, crcOk := false, lenOk := false,
      decKind := none, decN := 0x00, pidx := 0x00, rdata := none }

/-- R31-R33; the received CRC and the CRC range of R159 are said as a split of the list. -/
def Obligations.CheckFlagsSayWhatTheChecksFound : Prop :=
  ∀ s : State,
    (∃ t, exec .decEndRead s = .next t
      ∧ (t.ackOk = true ↔ ∃ tail, s.rx = 0x02 :: tail)
      ∧ (t.lenOk = true ↔ s.rxOvf = false ∧ 6 + s.param.toNat ≤ s.rx.length)
      ∧ (t.crcOk = true ↔ t.lenOk = true
          ∧ ∃ h0 h1 body ch cl, s.rx = h0 :: h1 :: (body ++ [ch, cl]) ∧ crc16 body = pair ch cl))
    ∧ (∃ t, exec .decEndWrite s = .next t
      ∧ (t.ackOk = true ↔ ∃ tail, s.rx = 0x02 :: tail)
      ∧ (t.lenOk = true ↔ s.rxOvf = false ∧ 6 ≤ s.rx.length)
      ∧ (t.crcOk = true ↔ t.lenOk = true
          ∧ ∃ h0 h1 body ch cl, s.rx = h0 :: h1 :: (body ++ [ch, cl]) ∧ crc16 body = pair ch cl))
    ∧ (∀ (i : Instr) (d : Byte), i = .decStart ∨ i = .wrRxDin d ∨ i = .softReset →
        ∃ t, exec i s = .next t ∧ t.ackOk = false ∧ t.crcOk = false ∧ t.lenOk = false)
    ∧ State.reset.ackOk = false ∧ State.reset.crcOk = false ∧ State.reset.lenOk = false

/-- R151, R154 and R160, for every stored response and both parameters. -/
def Obligations.VerdictFollowsTheChecks : Prop :=
  ∀ (s : State) (i : Instr), i = .decEndRead ∨ i = .decEndWrite →
    ∃ t, exec i s = .next t
      ∧ (s.rx = [] → t.result = .noResponse)
      ∧ (s.rx ≠ [] → t.crcOk = true → t.ackOk = true → t.result = .ok)
      ∧ (s.rx ≠ [] → t.crcOk = true → t.ackOk = false → t.result = .noResponse)
      ∧ (s.rx ≠ [] → t.crcOk = false → t.ackOk = true → t.result = .checksumError)
      ∧ (s.rx ≠ [] → t.crcOk = false → t.ackOk = false → s.cfg.errPriority = .crcFirst → t.result = .checksumError)
      ∧ (s.rx ≠ [] → t.crcOk = false → t.ackOk = false → s.cfg.errPriority = .ackFirst → t.result = .noResponse)
      ∧ (t.result = .ok ↔ t.ackOk = true ∧ t.crcOk = true)

/-- R161 and R162 over the check and verdict functions (their content is stated by CheckFlagsSayWhatTheChecksFound and VerdictFollowsTheChecks). -/
def Obligations.DecEndEffects : Prop :=
  ∀ s : State,
    decodeBus 0x1006 = .decEndRead
    ∧ exec .decEndRead s = .next { s with
        ackOk := (checks .read s.param s.rx s.rxOvf).ackOk, lenOk := (checks .read s.param s.rx s.rxOvf).lenOk,
        crcOk := (checks .read s.param s.rx s.rxOvf).crcOk,
        result := verdict s.cfg.errPriority .read s.param s.rx s.rxOvf,
        decKind := some .read, decN := s.param, pidx := 0x00, rdata := none }
    ∧ decodeBus 0x1007 = .decEndWrite
    ∧ exec .decEndWrite s = .next { s with
        ackOk := (checks .write 0x00 s.rx s.rxOvf).ackOk, lenOk := (checks .write 0x00 s.rx s.rxOvf).lenOk,
        crcOk := (checks .write 0x00 s.rx s.rxOvf).crcOk,
        result := verdict s.cfg.errPriority .write 0x00 s.rx s.rxOvf,
        decKind := some .write, decN := 0x00, pidx := 0x00, rdata := none }

/-- R163: DEC_END is a pure function of (kind, N, rx, rx_ovf), and one with no DEC_START since reset judges the empty buffer. -/
def Obligations.DecEndIsRepeatable : Prop :=
  ∀ s : State, s.resetPin = false →
    runWords [0x1006, 0x1006] s = runWords [0x1006] s
    ∧ runWords [0x1007, 0x1007] s = runWords [0x1007] s
    ∧ (∃ t, runWords [0x1009, 0x1006] s = .next t ∧ t.result = .noResponse)
    ∧ ∃ t, runWords [0x1009, 0x1007] s = .next t ∧ t.result = .noResponse

/-- R158 with its whole duration: until the next DEC_START or reset. -/
def Obligations.OverflowedResponseIsNeverAccepted : Prop :=
  (∀ (s : State) (i : Instr), s.Inv → s.rxOvf = true → i = .decEndRead ∨ i = .decEndWrite →
      ∃ t, exec i s = .next t ∧ t.lenOk = false ∧ t.crcOk = false
        ∧ (s.cfg.errPriority = .ackFirst → s.rx.head? ≠ some 0x02 → t.result = .noResponse)
        ∧ (s.cfg.errPriority = .crcFirst ∨ s.rx.head? = some 0x02 → t.result = .checksumError))
    ∧ ∀ (s t : State) (i : Instr), s.rxOvf = true → i ≠ .decStart → i ≠ .softReset →
        exec i s = .next t → t.rxOvf = true

/-- R165 and R166; the premise is the invariant EveryStepKeepsThePayloadInRange states. -/
def Obligations.PayloadReadEffect : Prop :=
  ∀ (s : State) (d : Byte), s.PayloadInv →
    decodeBus (wordOf 0x0C00 d) = .rdPayload
    ∧ (s.result = .ok → s.decKind = some .read → s.pidx.toNat < s.decN.toNat →
        ∃ b : Byte, s.rx[4 + s.pidx.toNat]? = some b
          ∧ exec .rdPayload s = .next { s with pidx := BitVec.ofNat 8 ((s.pidx.toNat + 1) % 256), rdata := some b })
    ∧ (¬ (s.result = .ok ∧ s.decKind = some .read ∧ s.pidx.toNat < s.decN.toNat) →
        exec .rdPayload s
          = .next { s with pidx := BitVec.ofNat 8 ((s.pidx.toNat + 1) % 256), rdata := some 0x00 })

/-- R167-R170; R40 for the fit in 16 bits. -/
def Obligations.PayloadIndexAndLengthEffects : Prop :=
  ∀ (s : State) (d : Byte),
    decodeBus (wordOf 0x1900 d) = .wrPidx d
    ∧ exec (.wrPidx d) s = .next { s with pidx := d, rdata := none }
    ∧ decodeBus (wordOf 0x0900 d) = .rdPidx
    ∧ exec .rdPidx s = .next { s with rdata := some s.pidx }
    ∧ decodeBus (wordOf 0x0D00 d) = .rdRxlenLo
    ∧ exec .rdRxlenLo s = .next { s with rdata := some (BitVec.ofNat 8 (s.rx.length % 256)) }
    ∧ decodeBus (wordOf 0x0E00 d) = .rdRxlenHi
    ∧ exec .rdRxlenHi s = .next { s with rdata := some (BitVec.ofNat 8 (s.rx.length / 256 % 256)) }
    ∧ (s.rx.length ≤ 65535 →
        (BitVec.ofNat 8 (s.rx.length / 256 % 256)).toNat * 256 + (BitVec.ofNat 8 (s.rx.length % 256)).toNat
          = s.rx.length)

/-- R171, over the runs of log 1, for every starting state and both parameters. -/
def Obligations.ValidReadResponseYieldsItsPayload : Prop :=
  ∀ (s : State) (b1 b2 b3 : Byte) (P : List Byte), s.resetPin = false → P.length ≤ 255 → 6 + P.length ≤ s.cfg.rxCap →
    ∃ t, runWords ((0x1005 : BusWord)
          :: ([0x02, b1, b2, b3] ++ P ++ [hi (crc16 ([b2, b3] ++ P)), lo (crc16 ([b2, b3] ++ P))]).map (wordOf 0x1800)
          ++ [wordOf 0x1700 (BitVec.ofNat 8 P.length), 0x1006]) s = .next t
      ∧ t.result = .ok
      ∧ ∀ (i : Nat) (b : Byte), P[i]? = some b →
          ∃ u, runWords (List.replicate (i + 1) 0x0C00) t = .next u ∧ u.rdata = some b

/-- R172, over the runs of log 1. -/
def Obligations.CorruptedResponseIsRejected : Prop :=
  ∀ (s : State) (b1 b2 b3 : Byte) (P : List Byte), s.resetPin = false → P.length ≤ 255 → 6 + P.length ≤ s.cfg.rxCap →
    (∀ ch cl : Byte, pair ch cl ≠ crc16 ([b2, b3] ++ P) →
      ∃ t, runWords ((0x1005 : BusWord) :: ([0x02, b1, b2, b3] ++ P ++ [ch, cl]).map (wordOf 0x1800)
            ++ [wordOf 0x1700 (BitVec.ofNat 8 P.length), 0x1006]) s = .next t
        ∧ t.crcOk = false ∧ t.result = .checksumError)
    ∧ ∀ (i k : Nat) (_ : i < ([b2, b3] ++ P).length), k < 8 →
      ∃ t, runWords ((0x1005 : BusWord)
            :: ([0x02, b1] ++ ([b2, b3] ++ P).set i (([b2, b3] ++ P)[i] ^^^ (1 <<< k))
                ++ [hi (crc16 ([b2, b3] ++ P)), lo (crc16 ([b2, b3] ++ P))]).map (wordOf 0x1800)
            ++ [wordOf 0x1700 (BitVec.ofNat 8 P.length), 0x1006]) s = .next t
        ∧ t.crcOk = false ∧ t.result = .checksumError

/-- R83 and the derived sentence of R159. -/
def Obligations.SecondHeaderByteIsNeverChecked : Prop :=
  ∀ (p : ErrPriority) (kind : FrameKind) (n b0 b1 b1' : Byte) (tail : List Byte) (ovf : Bool),
    checks kind n (b0 :: b1 :: tail) ovf = checks kind n (b0 :: b1' :: tail) ovf
    ∧ verdict p kind n (b0 :: b1 :: tail) ovf = verdict p kind n (b0 :: b1' :: tail) ovf

/-- The derived sentence of R159 (and V-D29). -/
def Obligations.AppendedZeroByteIsStillAccepted : Prop :=
  ∀ (s t : State) (w : BusWord), s.resetPin = false → s.rx.length < s.cfg.rxCap → w = 0x1006 ∨ w = 0x1007 →
    runWords [w] s = .next t → t.result = .ok →
    ∃ u, runWords [0x1800, w] s = .next u ∧ u.result = .ok ∧ u.rx = s.rx ++ [0x00]

/-- R190-R193, R195, R196. -/
def Obligations.ControlFamilyEffects : Prop :=
  (∀ s : State, decodeBus 0x1000 = .nop ∧ exec .nop s = .next { s with rdata := none })
    ∧ (∀ (s : State) (code : Byte), 0x0A ≤ code.toNat →
        decodeBus (wordOf 0x1000 code) = .cmdRsvd code
        ∧ exec (.cmdRsvd code) s = .next { s with cmdErr := true, rdata := none })
    ∧ (∀ s : State, decodeBus 0x1008 = .clrCmderr
        ∧ exec .clrCmderr s = .next { s with cmdErr := false, rdata := none })
    ∧ (∀ s : State, decodeBus 0x1009 = .softReset
        ∧ exec .softReset s = .next { s with
            crc := 0x0000, addrHi := 0x00, addrLo := 0x00, param := 0x01, pidx := 0x00,
            tx := #v[0x00, 0x00, 0x00, 0x00, 0x00, 0x00, 0x00, 0x00, 0x00], txLen := 0, txIdx := 0,
            rx := [], rxOvf := false, result := .none, ackOk := false, crcOk := false, lenOk := false,
            decKind := none, decN := 0x00, cmdErr := false, rdata := none })
    ∧ (∀ (s : State) (a : RegAddr) (d : Byte), (1 ≤ a.toNat ∧ a.toNat ≤ 3) ∨ 10 ≤ a.toNat →
        decodeBus (wordOf (0x1000 ||| (a.setWidth 13 <<< 8)) d) = .wrIgnored a d
        ∧ exec (.wrIgnored a d) s = .next { s with rdata := none })
    ∧ (∀ (s : State) (a : RegAddr) (d : Byte), a = 0x0 ∨ a = 0x4 ∨ a = 0x8 ∨ a = 0xF →
        decodeBus (wordOf (a.setWidth 13 <<< 8) d) = .rdZero a
        ∧ exec (.rdZero a) s = .next { s with rdata := some 0x00 })

/-- R29, R36 and R194. -/
def Obligations.StatusReadShowsEveryField : Prop :=
  (∀ (s : State) (d : Byte), decodeBus (wordOf 0x0100 d) = .rdStatus
      ∧ ∃ b : Byte, exec .rdStatus s = .next { s with rdata := some b }
        ∧ b.toNat = (match s.result with | .none => 0 | .ok => 1 | .noResponse => 2 | .checksumError => 3)
            + 4 * s.ackOk.toNat + 8 * s.crcOk.toNat + 16 * s.lenOk.toNat + 32 * s.rxOvf.toNat
            + 64 * s.cmdErr.toNat + 128 * (decide (s.txIdx < s.txLen)).toNat)
    ∧ (∀ (s : State) (d : Byte), decodeBus (wordOf 0x1100 d) = .wrIgnored 0x1 d
        ∧ exec (.wrIgnored 0x1 d) s = .next { s with rdata := none })
    ∧ statusByte State.reset = 0x00

/-- R240; the host events, resetPin and that power-on keeps its level are the model's choice (log 4). -/
def Obligations.EveryResetLeavesTheSameBlock : Prop :=
  ∀ (s : State) (rest : List HostEvent), s.resetPin = false →
    step { s with pending := .powerOn :: rest } = .next { State.reset with cfg := s.cfg, pending := rest }
    ∧ step { s with pending := .issue (.bus 0x1009) :: rest } = .next { State.reset with cfg := s.cfg, pending := rest }
    ∧ step { s with pending := .assertReset :: rest }
        = .next { State.reset with cfg := s.cfg, pending := rest, resetPin := true }
    ∧ step { s with pending := .releaseReset :: rest, resetPin := true }
        = .next { s with pending := rest, rdata := none }
    ∧ step { s with pending := .powerOn :: rest, resetPin := true }
        = .next { State.reset with cfg := s.cfg, pending := rest, resetPin := true }

/-- The register reads after reset that R46 and R241 give, at every one of the 16 addresses. -/
def Obligations.RegistersReadTheirResetValues : Prop :=
  ∀ (s : State) (a : RegAddr) (d : Byte), s.resetPin = false →
    ∃ t, runWords [0x1009, wordOf (a.setWidth 13 <<< 8) d] s = .next t
      ∧ t.rdata = some (if a = 0x7 then 0x01 else 0x00)

/-- Decode and encode agree, over the transaction words and the wire frames (logs 5, 6, 8). -/
def Obligations.DecodeInvertsEncode : Prop :=
  ∀ i : Instr, i.wf = true → decode (encode i) = .ok i

/-- R70, R72 and R76: d of a read is the only part that decoding drops; the frames of R80 and R83 lose nothing (logs 5, 6, 8). -/
def Obligations.EncodeInvertsDecode : Prop :=
  (∀ w : BusWord, ∃ i, decode (.bus w) = .ok i)
    ∧ ∀ (e : Encoded) (i : Instr), decode e = .ok i → i.wf = true
      ∧ encode i = (match e with
          | .bus w => .bus (if w.getLsbD 12 then w else w &&& 0x0F00)
          | .frame bytes => .frame bytes)

/-- R72, held against the rows of R74, R75 and R77. -/
def Obligations.EveryWordSelectsExactlyOneRow : Prop :=
  ∀ w : BusWord,
    (busRows.filter fun r => r.selects w).map (fun r => r.mnemonic) = [(decodeBus w).mnemonic]
    ∧ ∀ s : State, ∃ t, exec (decodeBus w) s = .next t

/-- The byte lists are those of R80, R81 and R83. The block never decodes a command frame (R82): that the table's frames are
decoded is the model's choice (logs 5, 6, 7). -/
def Obligations.CommandFramesDecodeOnlyWhenTheirCrcIsRight : Prop :=
  ∀ (bytes : List Byte) (a : Half) (p : Byte) (tail : List Byte),
    (decode (.frame bytes) = .ok (.cmdRead a p) ↔ bytes = [0x7E, 0x00, 0x07, 0x01, hi a, lo a, p,
        hi (crc16 [0x07, 0x01, hi a, lo a, p]), lo (crc16 [0x07, 0x01, hi a, lo a, p])])
    ∧ (decode (.frame bytes) = .ok (.cmdWrite a p) ↔ bytes = [0x7E, 0x00, 0x08, 0x01, hi a, lo a, p,
        hi (crc16 [0x08, 0x01, hi a, lo a, p]), lo (crc16 [0x08, 0x01, hi a, lo a, p])])
    ∧ (decode (.frame bytes) = .ok (.respAck tail) ↔ bytes = 0x02 :: tail)

/-- A sanity statement over words of R74, R75 and R77. -/
def Obligations.SampleWordsDecodeAsTheTableSays : Prop :=
  [0x1001, 0x14A5, 0x1003, 0x0A00, 0x1806, 0x1007, 0x0CFF, 0x10FF, 0x1CAB, 0x0F00].map decodeBus
    = [.crcInit, .wrCrcDin 0xA5, .encWrite, .rdTxDout, .wrRxDin 0x06, .decEndWrite, .rdPayload, .cmdRsvd 0xFF,
        .wrIgnored 0xC 0xAB, .rdZero 0xF]

/-- How a run reaches exec (log 1). -/
def Obligations.StepRunsTheIssuedInstruction : Prop :=
  (∀ (s : State) (e : Encoded) (i : Instr) (rest : List HostEvent),
      s.pending = .issue e :: rest → s.resetPin = false → decode e = .ok i → i.wf = true →
      step s = exec i { s with pending := rest })
    ∧ ∀ s : State, s.pending = [] → step s = .next s

/-- R73 (total, a byte for a read, none for a write), R216 and 93 I24, over the steps of log 1. -/
def Obligations.EveryTransactionCompletesInOneStep : Prop :=
  ∀ (s : State) (w : BusWord) (rest : List HostEvent), s.pending = .issue (.bus w) :: rest → s.resetPin = false →
    ∃ t, step s = .next t ∧ t.pending = rest ∧ t.cfg = s.cfg ∧ t.resetPin = false
      ∧ (t.rdata.isSome = true ↔ w.getLsbD 12 = false)

/-- R47 as an inductive invariant over every event. -/
def Obligations.EveryStepKeepsTheStateInvariants : Prop :=
  ∀ s t : State, s.Inv → step s = .next t → t.Inv

/-- R46 and R47 at reset. -/
def Obligations.ResetMeetsTheStateInvariants : Prop :=
  ∀ c : Config, c.wf → ({ State.reset with cfg := c }).Inv ∧ ({ State.reset with cfg := c }).PayloadInv

/-- The first corner case of R166, as an inductive invariant. -/
def Obligations.EveryStepKeepsThePayloadInRange : Prop :=
  ∀ s t : State, s.PayloadInv → step s = .next t → t.PayloadInv

/-- R22-R25 over all 8192 words. -/
def Obligations.OperandAndIndexRegistersHaveTheirOwnWriters : Prop :=
  ∀ (s t : State) (w : BusWord), exec (decodeBus w) s = .next t →
    (t.addrHi ≠ s.addrHi → w = 0x1009 ∨ ∃ d, w = wordOf 0x1500 d)
    ∧ (t.addrLo ≠ s.addrLo → w = 0x1009 ∨ ∃ d, w = wordOf 0x1600 d)
    ∧ (t.param ≠ s.param → w = 0x1009 ∨ ∃ d, w = wordOf 0x1700 d)
    ∧ (t.pidx ≠ s.pidx → w = 0x1009 ∨ w = 0x1005 ∨ w = 0x1006 ∨ w = 0x1007
        ∨ (∃ d, w = wordOf 0x1900 d) ∨ ∃ d, w = wordOf 0x0C00 d)

/-- The table of R45, R217 (which operations clear the error state), and R41 for the latches dec_kind and dec_n. -/
def Obligations.StatusFlagsHaveTheirOwnWriters : Prop :=
  ∀ (s t : State) (w : BusWord), exec (decodeBus w) s = .next t →
    (t.result ≠ s.result ∨ t.ackOk ≠ s.ackOk ∨ t.crcOk ≠ s.crcOk ∨ t.lenOk ≠ s.lenOk →
        w = 0x1005 ∨ w = 0x1006 ∨ w = 0x1007 ∨ w = 0x1009 ∨ ∃ d, w = wordOf 0x1800 d)
    ∧ (s.rxOvf = false → t.rxOvf = true → s.cfg.rxCap ≤ s.rx.length ∧ ∃ d, w = wordOf 0x1800 d)
    ∧ (s.rxOvf = true → t.rxOvf = false → w = 0x1005 ∨ w = 0x1009)
    ∧ (s.cmdErr = false → t.cmdErr = true → ∃ d : Byte, 0x0A ≤ d.toNat ∧ w = wordOf 0x1000 d)
    ∧ (s.cmdErr = true → t.cmdErr = false → w = 0x1008 ∨ w = 0x1009)
    ∧ (t.decKind ≠ s.decKind ∨ t.decN ≠ s.decN → w = 0x1005 ∨ w = 0x1006 ∨ w = 0x1007 ∨ w = 0x1009)

/-- R37 and R39 over all 8192 words. -/
def Obligations.FrameBuffersHaveTheirOwnWriters : Prop :=
  ∀ (s t : State) (w : BusWord), exec (decodeBus w) s = .next t →
    (t.tx ≠ s.tx ∨ t.txLen ≠ s.txLen → w = 0x1002 ∨ w = 0x1003 ∨ w = 0x1009)
    ∧ (t.txIdx ≠ s.txIdx →
        w = 0x1002 ∨ w = 0x1003 ∨ w = 0x1004 ∨ w = 0x1009 ∨ ∃ d, w = wordOf 0x0A00 d)
    ∧ (t.rx ≠ s.rx → w = 0x1005 ∨ w = 0x1009 ∨ ∃ d, w = wordOf 0x1800 d ∧ t.rx = s.rx ++ [d])

/-- R76, the don't-care d of a read, over the steps of log 1. -/
def Obligations.ReadDataFieldIsIgnored : Prop :=
  ∀ (s : State) (a : RegAddr) (d : Byte) (rest : List HostEvent),
    step { s with pending := .issue (.bus (wordOf (a.setWidth 13 <<< 8) d)) :: rest }
      = step { s with pending := .issue (.bus (a.setWidth 13 <<< 8)) :: rest }

/-- R57. -/
def Obligations.OnlyTwoReadsHaveSideEffects : Prop :=
  (∀ (s : State) (a : RegAddr) (d : Byte), a ≠ 0xA → a ≠ 0xC →
      ∃ b : Byte, exec (decodeBus (wordOf (a.setWidth 13 <<< 8) d)) s = .next { s with rdata := some b })
    ∧ ∀ (s : State) (a : RegAddr) (d : Byte), s.resetPin = false → a = 0x5 ∨ a = 0x6 ∨ a = 0x7 ∨ a = 0x9 →
        runWords [wordOf (0x1000 ||| (a.setWidth 13 <<< 8)) d, wordOf (0x1000 ||| (a.setWidth 13 <<< 8)) d] s
          = runWords [wordOf (0x1000 ||| (a.setWidth 13 <<< 8)) d] s

/-- R240 and 93 I22: refuse, no move in a model. -/
def Obligations.TransactionDuringResetHasNoMove : Prop :=
  ∀ (s : State) (e : Encoded) (rest : List HostEvent), s.pending = .issue e :: rest → s.resetPin = true →
    step s = .refused .transactionInReset

/-- The expansions of R79 (logs 5, 6). -/
def Obligations.WireFrameEffects : Prop :=
  ∀ s : State,
    (∀ (a : Half) (c : Byte), ∃ f : Vector Byte 9,
      Encoded.frame f.toList = encode (.cmdRead a c)
      ∧ exec (.cmdRead a c) s = .next { s with
          addrHi := hi a, addrLo := lo a, param := c, tx := f, txLen := 9, txIdx := 0, rdata := none })
    ∧ (∀ (a : Half) (v : Byte), ∃ f : Vector Byte 9,
      Encoded.frame f.toList = encode (.cmdWrite a v)
      ∧ exec (.cmdWrite a v) s = .next { s with
          addrHi := hi a, addrLo := lo a, param := v, tx := f, txLen := 9, txIdx := 0, rdata := none })
    ∧ ∀ tail : List Byte, s.rx.length ≤ s.cfg.rxCap →
      exec (.respAck tail) s = .next { s with
        rx := (s.rx ++ 0x02 :: tail).take s.cfg.rxCap
        rxOvf := s.rxOvf || decide (s.cfg.rxCap < s.rx.length + 1 + tail.length)
        result := .none, ackOk := false, crcOk := false, lenOk := false, rdata := none }

/-- The exact expansions of R79 (logs 5, 6). -/
def Obligations.WireFramesAreTheirExpansions : Prop :=
  ∀ s : State, s.resetPin = false →
    (∀ (a : Half) (c : Byte), exec (.cmdRead a c) s
      = runWords [wordOf 0x1500 (hi a), wordOf 0x1600 (lo a), wordOf 0x1700 c, 0x1002] s)
    ∧ (∀ (a : Half) (v : Byte), exec (.cmdWrite a v) s
      = runWords [wordOf 0x1500 (hi a), wordOf 0x1600 (lo a), wordOf 0x1700 v, 0x1003] s)
    ∧ ∀ tail : List Byte, exec (.respAck tail) s = runWords ((0x02 :: tail).map (wordOf 0x1800)) s

/-- R78 and R79, with the register map of R55 and the codes of R74. Of the rejections, only that of an imm8 outside 0-255
is R78's: that of rN above 15 and that of an A of seta, enc.read or enc.write above 0xFFFF are the model's choice, and so
are that lines are terms and that crc.bytes and rx.bytes of no byte are no transaction (log 11). -/
def Obligations.AssemblyLinesAreTheirWords : Prop :=
  [AsmReg.cmd, .status, .crcHi, .crcLo, .crcDin, .addrHi, .addrLo, .param, .rxDin, .pidx, .txDout, .txLeft, .payload,
      .rxlenLo, .rxlenHi].map AsmReg.addr
      = [some 0x0, some 0x1, some 0x2, some 0x3, some 0x4, some 0x5, some 0x6, some 0x7, some 0x8, some 0x9, some 0xA,
          some 0xB, some 0xC, some 0xD, some 0xE]
    ∧ (∀ k : Nat, (k ≤ 15 → ∃ a : RegAddr, a.toNat = k ∧ (AsmReg.num k).addr = some a)
        ∧ (15 < k → (AsmReg.num k).addr = none))
    ∧ (∀ (r : AsmReg) (a : RegAddr) (n : Nat), r.addr = some a → n ≤ 255 →
      (AsmLine.wr r n).assemble = some [BitVec.ofNat 13 (0x1000 + a.toNat * 0x100 + n)])
    ∧ (∀ (r : AsmReg) (n : Nat), 255 < n → (AsmLine.wr r n).assemble = none)
    ∧ (∀ k n : Nat, 15 < k → (AsmLine.wr (.num k) n).assemble = none ∧ (AsmLine.rd (.num k)).assemble = none)
    ∧ (∀ (r : AsmReg) (a : RegAddr), r.addr = some a →
        (AsmLine.rd r).assemble = some [BitVec.ofNat 13 (a.toNat * 0x100)])
    ∧ [AsmCommand.nop, .crcInit, .encRead, .encWrite, .txRewind, .decStart, .decEndRead, .decEndWrite, .clrCmderr,
        .softReset].map (fun c => (AsmLine.cmd c).assemble)
      = [some [0x1000], some [0x1001], some [0x1002], some [0x1003], some [0x1004], some [0x1005], some [0x1006],
          some [0x1007], some [0x1008], some [0x1009]]
    ∧ (∀ c : AsmCommand, (AsmLine.wrCommand c).assemble = (AsmLine.cmd c).assemble
        ∧ (AsmLine.cmd c).assemble = (AsmLine.wr .cmd c.code.toNat).assemble)
    ∧ (∀ bytes : List Byte,
        (AsmLine.crcBytes (bytes.map BitVec.toNat)).assemble = some (bytes.map (wordOf 0x1400))
        ∧ (AsmLine.rxBytes (bytes.map BitVec.toNat)).assemble = some (bytes.map (wordOf 0x1800)))
    ∧ (∀ (ns : List Nat) (n : Nat), n ∈ ns → 255 < n →
        (AsmLine.crcBytes ns).assemble = none ∧ (AsmLine.rxBytes ns).assemble = none)
    ∧ (∀ a : Half, (AsmLine.seta a.toNat).assemble = some [wordOf 0x1500 (hi a), wordOf 0x1600 (lo a)])
    ∧ (∀ (a : Half) (c : Byte), (AsmLine.encRead a.toNat c.toNat).assemble
        = some [wordOf 0x1500 (hi a), wordOf 0x1600 (lo a), wordOf 0x1700 c, 0x1002])
    ∧ (∀ (a : Half) (v : Byte), (AsmLine.encWrite a.toNat v.toNat).assemble
        = some [wordOf 0x1500 (hi a), wordOf 0x1600 (lo a), wordOf 0x1700 v, 0x1003])
    ∧ ∀ n p : Nat, (0xFFFF < n → (AsmLine.seta n).assemble = none)
        ∧ (0xFFFF < n ∨ 0xFF < p →
            (AsmLine.encRead n p).assemble = none ∧ (AsmLine.encWrite n p).assemble = none)

/-- R224 up to the read of STATUS, R225, R154 and R160 (log 12); what follows it is ExchangeEndsAsItsStatusSays. -/
def Obligations.HostExchangeEndsInTheVerdictOnItsResponse : Prop :=
  ∀ (s : State) (x : Exchange), s.resetPin = false → x.response.length ≤ s.cfg.rxCap →
    ∃ t, runWords x.words s = .next t
      ∧ t.result = verdict s.cfg.errPriority x.kind (match x.kind with | .read => x.param | .write => 0x00) x.response false
      ∧ t.rx = x.response ∧ t.txIdx = 9 ∧ t.txLen = 9 ∧ t.cmdErr = s.cmdErr
      ∧ t.rdata = some (statusByte t)
      ∧ (x.first = [] → x.retry = [] → t.result = .noResponse)

/-- R224 whole, with the retry of R225 and the payload of R164 and R165; the frame sent and the bytes received stay for the
diagnosis of R227. The conduct of the host is log 12. -/
def Obligations.ExchangeEndsAsItsStatusSays : Prop :=
  (∀ b : Byte, (b.toNat % 4 = 1 → branchOf b = some .success) ∧ (b.toNat % 4 = 2 → branchOf b = some .noResponse)
      ∧ (b.toNat % 4 = 3 → branchOf b = some .checksumError) ∧ (b.toNat % 4 = 0 → branchOf b = none))
    ∧ ∀ (s : State) (x : Exchange), s.resetPin = false → s.cfg.wf →
      ∃ r, x.perform s = some r
        ∧ r.sent = commandFrameBytes (match x.kind with | .read => 0x07 | .write => 0x08) x.addr x.param
        ∧ r.received = (if x.first = [] then x.retry else x.first)
        ∧ r.block.tx.toList = r.sent ∧ r.block.txLen = 9
        ∧ r.block.rx = r.received.take s.cfg.rxCap
        ∧ r.block.result = verdict s.cfg.errPriority x.kind (match x.kind with | .read => x.param | .write => 0x00)
            (r.received.take s.cfg.rxCap) (decide (s.cfg.rxCap < r.received.length))
        ∧ (r.ending = .success ↔ r.block.result = .ok)
        ∧ (r.ending = .noResponse ↔ r.block.result = .noResponse)
        ∧ (r.ending = .checksumError ↔ r.block.result = .checksumError)
        ∧ (r.ending = .success → x.kind = .read → r.payload = (r.received.drop 4).take x.param.toNat
            ∧ r.payload.length = x.param.toNat)
        ∧ (r.ending ≠ .success ∨ x.kind = .write → r.payload = [])
end

