-- ==== Sys2Proof/Laws/Crc.lean ====
section
/-! SUPPORT. The halves of a 16-bit value, and the linearity of the polynomial step (40_crc.md R102, R108). -/

namespace Sys2Proof.Machine

@[simp] theorem pair_hi_lo (x : Half) : pair (hi x) (lo x) = x := by
  unfold pair hi lo
  ext i hi'
  simp only [BitVec.getElem_or, BitVec.getElem_shiftLeft, BitVec.getElem_setWidth, BitVec.getLsbD_extractLsb']
  by_cases h : i < 8
  · simp [h, BitVec.getLsbD_eq_getElem hi']
  · have e : 8 + (i - 8) = i := by omega
    have l : i - 8 < 8 := by omega
    simp [h, l, e, BitVec.getLsbD_eq_getElem hi']

@[simp] theorem hi_pair (h l : Byte) : hi (pair h l) = h := by
  unfold pair hi
  ext i hi'
  have l8 : 8 + i < 16 := by omega
  simp [l8, BitVec.getLsbD_eq_getElem hi']

@[simp] theorem lo_pair (h l : Byte) : lo (pair h l) = l := by
  unfold pair lo
  ext i hi'
  have l16 : i < 16 := by omega
  simp [hi', l16, BitVec.getLsbD_eq_getElem]

@[simp] theorem crcTable_zero : crcTable 0#8 = 0#16 := by decide

theorem shift1_xor (x y : Half) : shift1 (x ^^^ y) = shift1 x ^^^ shift1 y := by
  unfold shift1
  rw [BitVec.getLsbD_xor, BitVec.shiftLeft_xor_distrib]
  cases x.getLsbD 15 <;> cases y.getLsbD 15 <;> ext i hi <;> simp <;> grind

theorem shiftN_xor (n : Nat) (x y : Half) : shiftN n (x ^^^ y) = shiftN n x ^^^ shiftN n y := by
  induction n generalizing x y with
  | zero => rfl
  | succ n ih => rw [shiftN, shift1_xor, ih]; rfl

@[simp] theorem crc16_nil : crc16 [] = 0x0000 := rfl

theorem crc16_append (S T : List Byte) : crc16 (S ++ T) = T.foldl crcStep (crc16 S) := by
  simp [crc16]

end Sys2Proof.Machine
end

