-- ==== Sys2Proof/Laws/Decode.lean ====
section
/-! SUPPORT. What the words of 30_encoding.md R74, R75 and R77 decode to, at every data byte, and that decoding a frame
keeps its bytes. -/

namespace Sys2Proof.Machine

/-- The fields of a read word (R70). -/
theorem readWord_fields (a : RegAddr) (d : Byte) :
    busWe (wordOf (a.setWidth 13 <<< 8) d) = false ∧ busAddr (wordOf (a.setWidth 13 <<< 8) d) = a := by
  refine ⟨by simp [busWe, wordOf], ?_⟩
  ext i hi
  have : i = 0 ∨ i = 1 ∨ i = 2 ∨ i = 3 := by omega
  rcases this with rfl | rfl | rfl | rfl <;> simp [busAddr, wordOf]

/-- The fields of a write word (R70). -/
theorem writeWord_fields (a : RegAddr) (d : Byte) :
    busWe (wordOf (0x1000 ||| (a.setWidth 13 <<< 8)) d) = true
      ∧ busAddr (wordOf (0x1000 ||| (a.setWidth 13 <<< 8)) d) = a
      ∧ busData (wordOf (0x1000 ||| (a.setWidth 13 <<< 8)) d) = d := by
  refine ⟨by simp [busWe, wordOf], ?_, ?_⟩
  · ext i hi
    have : i = 0 ∨ i = 1 ∨ i = 2 ∨ i = 3 := by omega
    rcases this with rfl | rfl | rfl | rfl <;> simp [busAddr, wordOf]
  · ext i hi
    have : i = 0 ∨ i = 1 ∨ i = 2 ∨ i = 3 ∨ i = 4 ∨ i = 5 ∨ i = 6 ∨ i = 7 := by omega
    rcases this with rfl | rfl | rfl | rfl | rfl | rfl | rfl | rfl <;> simp [busData, wordOf]

/-- A read word of any address: d is dropped (R76). -/
theorem decode_read (a : RegAddr) (d : Byte) : decodeBus (wordOf (a.setWidth 13 <<< 8) d) = decodeRead a := by
  simp [decodeBus, readWord_fields a d]

/-- A write word of any address. -/
theorem decode_write (a : RegAddr) (d : Byte) :
    decodeBus (wordOf (0x1000 ||| (a.setWidth 13 <<< 8)) d) = decodeWrite a d := by
  simp only [decodeBus, writeWord_fields a d, if_true]

/-- The reserved codes (R75). -/
theorem decode_reserved : ∀ d : Byte, 0x0A ≤ d.toNat → decodeBus (wordOf 0x1000 d) = .cmdRsvd d := by
  decide +kernel

@[simp] theorem decode_wrCrcDin (d : Byte) : decodeBus (wordOf 0x1400#13 d) = .wrCrcDin d := decode_write 0x4 d
@[simp] theorem decode_wrAddrHi (d : Byte) : decodeBus (wordOf 0x1500#13 d) = .wrAddrHi d := decode_write 0x5 d
@[simp] theorem decode_wrAddrLo (d : Byte) : decodeBus (wordOf 0x1600#13 d) = .wrAddrLo d := decode_write 0x6 d
@[simp] theorem decode_wrParam (d : Byte) : decodeBus (wordOf 0x1700#13 d) = .wrParam d := decode_write 0x7 d
@[simp] theorem decode_wrRxDin (d : Byte) : decodeBus (wordOf 0x1800#13 d) = .wrRxDin d := decode_write 0x8 d
@[simp] theorem decode_wrPidx (d : Byte) : decodeBus (wordOf 0x1900#13 d) = .wrPidx d := decode_write 0x9 d
@[simp] theorem decode_rdStatus (d : Byte) : decodeBus (wordOf 0x0100#13 d) = .rdStatus := decode_read 0x1 d
@[simp] theorem decode_rdCrcHi (d : Byte) : decodeBus (wordOf 0x0200#13 d) = .rdCrcHi := decode_read 0x2 d
@[simp] theorem decode_rdCrcLo (d : Byte) : decodeBus (wordOf 0x0300#13 d) = .rdCrcLo := decode_read 0x3 d
@[simp] theorem decode_rdAddrHi (d : Byte) : decodeBus (wordOf 0x0500#13 d) = .rdAddrHi := decode_read 0x5 d
@[simp] theorem decode_rdAddrLo (d : Byte) : decodeBus (wordOf 0x0600#13 d) = .rdAddrLo := decode_read 0x6 d
@[simp] theorem decode_rdParam (d : Byte) : decodeBus (wordOf 0x0700#13 d) = .rdParam := decode_read 0x7 d
@[simp] theorem decode_rdPidx (d : Byte) : decodeBus (wordOf 0x0900#13 d) = .rdPidx := decode_read 0x9 d
@[simp] theorem decode_rdTxDout (d : Byte) : decodeBus (wordOf 0x0A00#13 d) = .rdTxDout := decode_read 0xA d
@[simp] theorem decode_rdTxLeft (d : Byte) : decodeBus (wordOf 0x0B00#13 d) = .rdTxLeft := decode_read 0xB d
@[simp] theorem decode_rdPayload (d : Byte) : decodeBus (wordOf 0x0C00#13 d) = .rdPayload := decode_read 0xC d
@[simp] theorem decode_rdRxlenLo (d : Byte) : decodeBus (wordOf 0x0D00#13 d) = .rdRxlenLo := decode_read 0xD d
@[simp] theorem decode_rdRxlenHi (d : Byte) : decodeBus (wordOf 0x0E00#13 d) = .rdRxlenHi := decode_read 0xE d

/-- The fields of a word determine it (R70). -/
theorem busWord_ext (v w : BusWord) (h1 : busWe v = busWe w) (h2 : busAddr v = busAddr w)
    (h3 : busData v = busData w) : v = w := by
  have bit (f : BusWord → BitVec 8) (k : Nat) (h : f v = f w) : (f v).getLsbD k = (f w).getLsbD k := by rw [h]
  have bit4 (k : Nat) : (busAddr v).getLsbD k = (busAddr w).getLsbD k := by rw [h2]
  apply BitVec.eq_of_getLsbD_eq
  intro i hi
  rcases Nat.lt_or_ge i 8 with h | h
  · have := bit busData i h3
    simpa [busData, h] using this
  rcases Nat.lt_or_ge i 12 with h' | h'
  · have := bit4 (i - 8)
    have e : 8 + (i - 8) = i := by omega
    have l : i - 8 < 4 := by omega
    simpa [busAddr, l, e] using this
  · obtain rfl : i = 12 := by omega
    exact h1

/-- The words the encoder builds are those of R77. -/
theorem busWrite_eq (a : RegAddr) (d : Byte) : busWrite a d = wordOf (0x1000 ||| (a.setWidth 13 <<< 8)) d := rfl

theorem busRead_eq (a : RegAddr) : busRead a = wordOf (a.setWidth 13 <<< 8) 0x00 := by
  simp [busRead, wordOf]

@[simp] theorem decode_busWrite (a : RegAddr) (d : Byte) : decodeBus (busWrite a d) = decodeWrite a d := by
  rw [busWrite_eq, decode_write]

@[simp] theorem decode_busRead (a : RegAddr) : decodeBus (busRead a) = decodeRead a := by
  rw [busRead_eq, decode_read]

/-- Everything `decodeCommandFrame` accepts (R80, R81). -/
theorem decodeCommandFrame_ok (bytes : List Byte) (i : Instr) (h : decodeCommandFrame bytes = .ok i) :
    ∃ op ah al p ch cl, bytes = [0x00, op, 0x01, ah, al, p, ch, cl]
      ∧ pair ch cl = crc16 [op, 0x01, ah, al, p]
      ∧ ((op = 0x07 ∧ i = .cmdRead (pair ah al) p) ∨ (op = 0x08 ∧ i = .cmdWrite (pair ah al) p)) := by
  unfold decodeCommandFrame at h
  split at h
  · rename_i rsvd op ty ah al p ch cl
    split at h
    · cases h
    split at h
    · cases h
    rename_i h1 h2
    simp only [bne_iff_ne, ne_eq, Bool.or_eq_true, not_or, not_not] at h1 h2
    obtain ⟨rfl, rfl⟩ := h1
    refine ⟨op, ah, al, p, ch, cl, rfl, h2, ?_⟩
    split at h
    · rename_i h3
      cases h
      exact .inl ⟨by simpa using h3, rfl⟩
    · split at h
      · rename_i h4
        cases h
        exact .inr ⟨by simpa using h4, rfl⟩
      · cases h
  · cases h

end Sys2Proof.Machine
end

