-- ==== Sys2Proof/Laws/State.lean ====
section
/-! SUPPORT. One lemma per field per update of the state, so that no later proof unfolds a record update. -/

namespace Sys2Proof.Machine

@[simp] theorem setOperands_crc (a : Half) (p : Byte) (s : State) : (setOperands a p s).crc = s.crc := rfl
@[simp] theorem setOperands_addrHi (a : Half) (p : Byte) (s : State) : (setOperands a p s).addrHi = hi a := rfl
@[simp] theorem setOperands_addrLo (a : Half) (p : Byte) (s : State) : (setOperands a p s).addrLo = lo a := rfl
@[simp] theorem setOperands_param (a : Half) (p : Byte) (s : State) : (setOperands a p s).param = p := rfl
@[simp] theorem setOperands_pidx (a : Half) (p : Byte) (s : State) : (setOperands a p s).pidx = s.pidx := rfl
@[simp] theorem setOperands_tx (a : Half) (p : Byte) (s : State) : (setOperands a p s).tx = s.tx := rfl
@[simp] theorem setOperands_txLen (a : Half) (p : Byte) (s : State) : (setOperands a p s).txLen = s.txLen := rfl
@[simp] theorem setOperands_txIdx (a : Half) (p : Byte) (s : State) : (setOperands a p s).txIdx = s.txIdx := rfl
@[simp] theorem setOperands_rx (a : Half) (p : Byte) (s : State) : (setOperands a p s).rx = s.rx := rfl
@[simp] theorem setOperands_rxOvf (a : Half) (p : Byte) (s : State) : (setOperands a p s).rxOvf = s.rxOvf := rfl
@[simp] theorem setOperands_result (a : Half) (p : Byte) (s : State) : (setOperands a p s).result = s.result := rfl
@[simp] theorem setOperands_ackOk (a : Half) (p : Byte) (s : State) : (setOperands a p s).ackOk = s.ackOk := rfl
@[simp] theorem setOperands_crcOk (a : Half) (p : Byte) (s : State) : (setOperands a p s).crcOk = s.crcOk := rfl
@[simp] theorem setOperands_lenOk (a : Half) (p : Byte) (s : State) : (setOperands a p s).lenOk = s.lenOk := rfl
@[simp] theorem setOperands_decKind (a : Half) (p : Byte) (s : State) : (setOperands a p s).decKind = s.decKind := rfl
@[simp] theorem setOperands_decN (a : Half) (p : Byte) (s : State) : (setOperands a p s).decN = s.decN := rfl
@[simp] theorem setOperands_cmdErr (a : Half) (p : Byte) (s : State) : (setOperands a p s).cmdErr = s.cmdErr := rfl
@[simp] theorem setOperands_cfg (a : Half) (p : Byte) (s : State) : (setOperands a p s).cfg = s.cfg := rfl
@[simp] theorem setOperands_resetPin (a : Half) (p : Byte) (s : State) : (setOperands a p s).resetPin = s.resetPin := rfl
@[simp] theorem setOperands_pending (a : Half) (p : Byte) (s : State) : (setOperands a p s).pending = s.pending := rfl
@[simp] theorem setOperands_rdata (a : Half) (p : Byte) (s : State) : (setOperands a p s).rdata = s.rdata := rfl

@[simp] theorem encodeFrame_crc (op : Byte) (s : State) : (encodeFrame op s).crc = s.crc := rfl
@[simp] theorem encodeFrame_addrHi (op : Byte) (s : State) : (encodeFrame op s).addrHi = s.addrHi := rfl
@[simp] theorem encodeFrame_addrLo (op : Byte) (s : State) : (encodeFrame op s).addrLo = s.addrLo := rfl
@[simp] theorem encodeFrame_param (op : Byte) (s : State) : (encodeFrame op s).param = s.param := rfl
@[simp] theorem encodeFrame_pidx (op : Byte) (s : State) : (encodeFrame op s).pidx = s.pidx := rfl
@[simp] theorem encodeFrame_tx (op : Byte) (s : State) : (encodeFrame op s).tx = commandFrame op s.addrHi s.addrLo s.param := rfl
@[simp] theorem encodeFrame_txLen (op : Byte) (s : State) : (encodeFrame op s).txLen = 9 := rfl
@[simp] theorem encodeFrame_txIdx (op : Byte) (s : State) : (encodeFrame op s).txIdx = 0 := rfl
@[simp] theorem encodeFrame_rx (op : Byte) (s : State) : (encodeFrame op s).rx = s.rx := rfl
@[simp] theorem encodeFrame_rxOvf (op : Byte) (s : State) : (encodeFrame op s).rxOvf = s.rxOvf := rfl
@[simp] theorem encodeFrame_result (op : Byte) (s : State) : (encodeFrame op s).result = s.result := rfl
@[simp] theorem encodeFrame_ackOk (op : Byte) (s : State) : (encodeFrame op s).ackOk = s.ackOk := rfl
@[simp] theorem encodeFrame_crcOk (op : Byte) (s : State) : (encodeFrame op s).crcOk = s.crcOk := rfl
@[simp] theorem encodeFrame_lenOk (op : Byte) (s : State) : (encodeFrame op s).lenOk = s.lenOk := rfl
@[simp] theorem encodeFrame_decKind (op : Byte) (s : State) : (encodeFrame op s).decKind = s.decKind := rfl
@[simp] theorem encodeFrame_decN (op : Byte) (s : State) : (encodeFrame op s).decN = s.decN := rfl
@[simp] theorem encodeFrame_cmdErr (op : Byte) (s : State) : (encodeFrame op s).cmdErr = s.cmdErr := rfl
@[simp] theorem encodeFrame_cfg (op : Byte) (s : State) : (encodeFrame op s).cfg = s.cfg := rfl
@[simp] theorem encodeFrame_resetPin (op : Byte) (s : State) : (encodeFrame op s).resetPin = s.resetPin := rfl
@[simp] theorem encodeFrame_pending (op : Byte) (s : State) : (encodeFrame op s).pending = s.pending := rfl
@[simp] theorem encodeFrame_rdata (op : Byte) (s : State) : (encodeFrame op s).rdata = s.rdata := rfl

@[simp] theorem clearVerdict_crc (s : State) : (clearVerdict s).crc = s.crc := rfl
@[simp] theorem clearVerdict_addrHi (s : State) : (clearVerdict s).addrHi = s.addrHi := rfl
@[simp] theorem clearVerdict_addrLo (s : State) : (clearVerdict s).addrLo = s.addrLo := rfl
@[simp] theorem clearVerdict_param (s : State) : (clearVerdict s).param = s.param := rfl
@[simp] theorem clearVerdict_pidx (s : State) : (clearVerdict s).pidx = s.pidx := rfl
@[simp] theorem clearVerdict_tx (s : State) : (clearVerdict s).tx = s.tx := rfl
@[simp] theorem clearVerdict_txLen (s : State) : (clearVerdict s).txLen = s.txLen := rfl
@[simp] theorem clearVerdict_txIdx (s : State) : (clearVerdict s).txIdx = s.txIdx := rfl
@[simp] theorem clearVerdict_rx (s : State) : (clearVerdict s).rx = s.rx := rfl
@[simp] theorem clearVerdict_rxOvf (s : State) : (clearVerdict s).rxOvf = s.rxOvf := rfl
@[simp] theorem clearVerdict_result (s : State) : (clearVerdict s).result = .none := rfl
@[simp] theorem clearVerdict_ackOk (s : State) : (clearVerdict s).ackOk = false := rfl
@[simp] theorem clearVerdict_crcOk (s : State) : (clearVerdict s).crcOk = false := rfl
@[simp] theorem clearVerdict_lenOk (s : State) : (clearVerdict s).lenOk = false := rfl
@[simp] theorem clearVerdict_decKind (s : State) : (clearVerdict s).decKind = s.decKind := rfl
@[simp] theorem clearVerdict_decN (s : State) : (clearVerdict s).decN = s.decN := rfl
@[simp] theorem clearVerdict_cmdErr (s : State) : (clearVerdict s).cmdErr = s.cmdErr := rfl
@[simp] theorem clearVerdict_cfg (s : State) : (clearVerdict s).cfg = s.cfg := rfl
@[simp] theorem clearVerdict_resetPin (s : State) : (clearVerdict s).resetPin = s.resetPin := rfl
@[simp] theorem clearVerdict_pending (s : State) : (clearVerdict s).pending = s.pending := rfl
@[simp] theorem clearVerdict_rdata (s : State) : (clearVerdict s).rdata = s.rdata := rfl

@[simp] theorem startDecode_crc (s : State) : (startDecode s).crc = s.crc := rfl
@[simp] theorem startDecode_addrHi (s : State) : (startDecode s).addrHi = s.addrHi := rfl
@[simp] theorem startDecode_addrLo (s : State) : (startDecode s).addrLo = s.addrLo := rfl
@[simp] theorem startDecode_param (s : State) : (startDecode s).param = s.param := rfl
@[simp] theorem startDecode_pidx (s : State) : (startDecode s).pidx = 0x00 := rfl
@[simp] theorem startDecode_tx (s : State) : (startDecode s).tx = s.tx := rfl
@[simp] theorem startDecode_txLen (s : State) : (startDecode s).txLen = s.txLen := rfl
@[simp] theorem startDecode_txIdx (s : State) : (startDecode s).txIdx = s.txIdx := rfl
@[simp] theorem startDecode_rx (s : State) : (startDecode s).rx = [] := rfl
@[simp] theorem startDecode_rxOvf (s : State) : (startDecode s).rxOvf = false := rfl
@[simp] theorem startDecode_result (s : State) : (startDecode s).result = .none := rfl
@[simp] theorem startDecode_ackOk (s : State) : (startDecode s).ackOk = false := rfl
@[simp] theorem startDecode_crcOk (s : State) : (startDecode s).crcOk = false := rfl
@[simp] theorem startDecode_lenOk (s : State) : (startDecode s).lenOk = false := rfl
@[simp] theorem startDecode_decKind (s : State) : (startDecode s).decKind = none := rfl
@[simp] theorem startDecode_decN (s : State) : (startDecode s).decN = 0x00 := rfl
@[simp] theorem startDecode_cmdErr (s : State) : (startDecode s).cmdErr = s.cmdErr := rfl
@[simp] theorem startDecode_cfg (s : State) : (startDecode s).cfg = s.cfg := rfl
@[simp] theorem startDecode_resetPin (s : State) : (startDecode s).resetPin = s.resetPin := rfl
@[simp] theorem startDecode_pending (s : State) : (startDecode s).pending = s.pending := rfl
@[simp] theorem startDecode_rdata (s : State) : (startDecode s).rdata = s.rdata := rfl

@[simp] theorem endDecode_crc (kind : FrameKind) (n : Byte) (s : State) : (endDecode kind n s).crc = s.crc := rfl
@[simp] theorem endDecode_addrHi (kind : FrameKind) (n : Byte) (s : State) : (endDecode kind n s).addrHi = s.addrHi := rfl
@[simp] theorem endDecode_addrLo (kind : FrameKind) (n : Byte) (s : State) : (endDecode kind n s).addrLo = s.addrLo := rfl
@[simp] theorem endDecode_param (kind : FrameKind) (n : Byte) (s : State) : (endDecode kind n s).param = s.param := rfl
@[simp] theorem endDecode_pidx (kind : FrameKind) (n : Byte) (s : State) : (endDecode kind n s).pidx = 0x00 := rfl
@[simp] theorem endDecode_tx (kind : FrameKind) (n : Byte) (s : State) : (endDecode kind n s).tx = s.tx := rfl
@[simp] theorem endDecode_txLen (kind : FrameKind) (n : Byte) (s : State) : (endDecode kind n s).txLen = s.txLen := rfl
@[simp] theorem endDecode_txIdx (kind : FrameKind) (n : Byte) (s : State) : (endDecode kind n s).txIdx = s.txIdx := rfl
@[simp] theorem endDecode_rx (kind : FrameKind) (n : Byte) (s : State) : (endDecode kind n s).rx = s.rx := rfl
@[simp] theorem endDecode_rxOvf (kind : FrameKind) (n : Byte) (s : State) : (endDecode kind n s).rxOvf = s.rxOvf := rfl
@[simp] theorem endDecode_result (kind : FrameKind) (n : Byte) (s : State) : (endDecode kind n s).result = verdict s.cfg.errPriority kind n s.rx s.rxOvf := rfl
@[simp] theorem endDecode_ackOk (kind : FrameKind) (n : Byte) (s : State) : (endDecode kind n s).ackOk = (checks kind n s.rx s.rxOvf).ackOk := rfl
@[simp] theorem endDecode_crcOk (kind : FrameKind) (n : Byte) (s : State) : (endDecode kind n s).crcOk = (checks kind n s.rx s.rxOvf).crcOk := rfl
@[simp] theorem endDecode_lenOk (kind : FrameKind) (n : Byte) (s : State) : (endDecode kind n s).lenOk = (checks kind n s.rx s.rxOvf).lenOk := rfl
@[simp] theorem endDecode_decKind (kind : FrameKind) (n : Byte) (s : State) : (endDecode kind n s).decKind = some kind := rfl
@[simp] theorem endDecode_decN (kind : FrameKind) (n : Byte) (s : State) : (endDecode kind n s).decN = n := rfl
@[simp] theorem endDecode_cmdErr (kind : FrameKind) (n : Byte) (s : State) : (endDecode kind n s).cmdErr = s.cmdErr := rfl
@[simp] theorem endDecode_cfg (kind : FrameKind) (n : Byte) (s : State) : (endDecode kind n s).cfg = s.cfg := rfl
@[simp] theorem endDecode_resetPin (kind : FrameKind) (n : Byte) (s : State) : (endDecode kind n s).resetPin = s.resetPin := rfl
@[simp] theorem endDecode_pending (kind : FrameKind) (n : Byte) (s : State) : (endDecode kind n s).pending = s.pending := rfl
@[simp] theorem endDecode_rdata (kind : FrameKind) (n : Byte) (s : State) : (endDecode kind n s).rdata = s.rdata := rfl

@[simp] theorem resetBlock_crc (s : State) : (resetBlock s).crc = State.reset.crc := rfl
@[simp] theorem resetBlock_addrHi (s : State) : (resetBlock s).addrHi = State.reset.addrHi := rfl
@[simp] theorem resetBlock_addrLo (s : State) : (resetBlock s).addrLo = State.reset.addrLo := rfl
@[simp] theorem resetBlock_param (s : State) : (resetBlock s).param = State.reset.param := rfl
@[simp] theorem resetBlock_pidx (s : State) : (resetBlock s).pidx = State.reset.pidx := rfl
@[simp] theorem resetBlock_tx (s : State) : (resetBlock s).tx = State.reset.tx := rfl
@[simp] theorem resetBlock_txLen (s : State) : (resetBlock s).txLen = State.reset.txLen := rfl
@[simp] theorem resetBlock_txIdx (s : State) : (resetBlock s).txIdx = State.reset.txIdx := rfl
@[simp] theorem resetBlock_rx (s : State) : (resetBlock s).rx = State.reset.rx := rfl
@[simp] theorem resetBlock_rxOvf (s : State) : (resetBlock s).rxOvf = State.reset.rxOvf := rfl
@[simp] theorem resetBlock_result (s : State) : (resetBlock s).result = State.reset.result := rfl
@[simp] theorem resetBlock_ackOk (s : State) : (resetBlock s).ackOk = State.reset.ackOk := rfl
@[simp] theorem resetBlock_crcOk (s : State) : (resetBlock s).crcOk = State.reset.crcOk := rfl
@[simp] theorem resetBlock_lenOk (s : State) : (resetBlock s).lenOk = State.reset.lenOk := rfl
@[simp] theorem resetBlock_decKind (s : State) : (resetBlock s).decKind = State.reset.decKind := rfl
@[simp] theorem resetBlock_decN (s : State) : (resetBlock s).decN = State.reset.decN := rfl
@[simp] theorem resetBlock_cmdErr (s : State) : (resetBlock s).cmdErr = State.reset.cmdErr := rfl
@[simp] theorem resetBlock_cfg (s : State) : (resetBlock s).cfg = s.cfg := rfl
@[simp] theorem resetBlock_resetPin (s : State) : (resetBlock s).resetPin = s.resetPin := rfl
@[simp] theorem resetBlock_pending (s : State) : (resetBlock s).pending = s.pending := rfl
@[simp] theorem resetBlock_rdata (s : State) : (resetBlock s).rdata = s.rdata := rfl

@[simp] theorem pushRx_crc (s : State) (d : Byte) :
    (pushRx s d).crc = s.crc := by
  unfold pushRx; split <;> rfl
@[simp] theorem pushRx_addrHi (s : State) (d : Byte) :
    (pushRx s d).addrHi = s.addrHi := by
  unfold pushRx; split <;> rfl
@[simp] theorem pushRx_addrLo (s : State) (d : Byte) :
    (pushRx s d).addrLo = s.addrLo := by
  unfold pushRx; split <;> rfl
@[simp] theorem pushRx_param (s : State) (d : Byte) :
    (pushRx s d).param = s.param := by
  unfold pushRx; split <;> rfl
@[simp] theorem pushRx_pidx (s : State) (d : Byte) :
    (pushRx s d).pidx = s.pidx := by
  unfold pushRx; split <;> rfl
@[simp] theorem pushRx_tx (s : State) (d : Byte) :
    (pushRx s d).tx = s.tx := by
  unfold pushRx; split <;> rfl
@[simp] theorem pushRx_txLen (s : State) (d : Byte) :
    (pushRx s d).txLen = s.txLen := by
  unfold pushRx; split <;> rfl
@[simp] theorem pushRx_txIdx (s : State) (d : Byte) :
    (pushRx s d).txIdx = s.txIdx := by
  unfold pushRx; split <;> rfl
@[simp] theorem pushRx_rx (s : State) (d : Byte) :
    (pushRx s d).rx = if s.rx.length < s.cfg.rxCap then s.rx ++ [d] else s.rx := by
  unfold pushRx; split <;> rfl
@[simp] theorem pushRx_rxOvf (s : State) (d : Byte) :
    (pushRx s d).rxOvf = if s.rx.length < s.cfg.rxCap then s.rxOvf else true := by
  unfold pushRx; split <;> rfl
@[simp] theorem pushRx_result (s : State) (d : Byte) :
    (pushRx s d).result = .none := by
  rfl
@[simp] theorem pushRx_ackOk (s : State) (d : Byte) :
    (pushRx s d).ackOk = false := by
  rfl
@[simp] theorem pushRx_crcOk (s : State) (d : Byte) :
    (pushRx s d).crcOk = false := by
  rfl
@[simp] theorem pushRx_lenOk (s : State) (d : Byte) :
    (pushRx s d).lenOk = false := by
  rfl
@[simp] theorem pushRx_decKind (s : State) (d : Byte) :
    (pushRx s d).decKind = s.decKind := by
  unfold pushRx; split <;> rfl
@[simp] theorem pushRx_decN (s : State) (d : Byte) :
    (pushRx s d).decN = s.decN := by
  unfold pushRx; split <;> rfl
@[simp] theorem pushRx_cmdErr (s : State) (d : Byte) :
    (pushRx s d).cmdErr = s.cmdErr := by
  unfold pushRx; split <;> rfl
@[simp] theorem pushRx_cfg (s : State) (d : Byte) :
    (pushRx s d).cfg = s.cfg := by
  unfold pushRx; split <;> rfl
@[simp] theorem pushRx_resetPin (s : State) (d : Byte) :
    (pushRx s d).resetPin = s.resetPin := by
  unfold pushRx; split <;> rfl
@[simp] theorem pushRx_pending (s : State) (d : Byte) :
    (pushRx s d).pending = s.pending := by
  unfold pushRx; split <;> rfl
@[simp] theorem pushRx_rdata (s : State) (d : Byte) :
    (pushRx s d).rdata = s.rdata := by
  unfold pushRx; split <;> rfl

@[simp] theorem noData_eq_next (s t : State) : noData s = .next t ↔ { s with rdata := none } = t := by
  simp [noData]

@[simp] theorem answer_eq_next (b : Byte) (s t : State) :
    answer b s = .next t ↔ { s with rdata := some b } = t := by
  simp [answer]

end Sys2Proof.Machine
end

