-- ==== Sys2Proof/Laws/Ops.lean ====
section
/-! SUPPORT. What each shared operation can do, said once, and what holds of the meaning of every instruction. -/

namespace Sys2Proof.Machine

/-- Everything `pushRx` can do (42_decoder.md R157). -/
theorem pushRx_cases (s : State) (d : Byte) :
    (s.rx.length < s.cfg.rxCap ∧ pushRx s d = clearVerdict { s with rx := s.rx ++ [d] })
      ∨ (s.cfg.rxCap ≤ s.rx.length ∧ pushRx s d = clearVerdict { s with rxOvf := true }) := by
  by_cases h : s.rx.length < s.cfg.rxCap
  · exact .inl ⟨h, by simp [pushRx, h]⟩
  · exact .inr ⟨by omega, by simp [pushRx, h]⟩

/-- A verdict is never NONE (42_decoder.md R160). -/
theorem verdict_ne_none (p : ErrPriority) (kind : FrameKind) (n : Byte) (rx : List Byte) (ovf : Bool) :
    verdict p kind n rx ovf ≠ .none := by
  unfold verdict
  cases p <;> simp only [] <;> repeat' split
  all_goals simp

/-- The verdict OK needs both checks, under both priorities (42_decoder.md R151, R160). -/
theorem verdict_ok (p : ErrPriority) (kind : FrameKind) (n : Byte) (rx : List Byte) (ovf : Bool)
    (h : verdict p kind n rx ovf = .ok) :
    (checks kind n rx ovf).crcOk = true ∧ (checks kind n rx ovf).ackOk = true := by
  unfold verdict at h
  cases p <;> simp only [] at h <;> repeat' split at h
  all_goals simp_all

/-- The CRC check passes only where the length check passed (42_decoder.md R159). -/
theorem checks_crcOk_lenOk (kind : FrameKind) (n : Byte) (rx : List Byte) (ovf : Bool)
    (h : (checks kind n rx ovf).crcOk = true) : (checks kind n rx ovf).lenOk = true := by
  simp only [checks, Bool.and_eq_true] at h ⊢
  exact h.1

/-- What a passed length check says (42_decoder.md R159). -/
theorem checks_lenOk (kind : FrameKind) (n : Byte) (rx : List Byte) (ovf : Bool) :
    (checks kind n rx ovf).lenOk = true ↔ ovf = false ∧ needLength kind n ≤ rx.length := by
  simp [checks]

/-- Everything RD_TX_DOUT can do (41_encoder.md R125). -/
theorem execRdTxDout_cases (s : State) :
    (s.txIdx < s.txLen ∧ execRdTxDout s = .next { s with txIdx := s.txIdx + 1, rdata := some (txByte s) })
      ∨ (s.txLen ≤ s.txIdx ∧ execRdTxDout s = .next { s with rdata := some 0x00 }) := by
  unfold execRdTxDout
  split
  · exact .inl ⟨by assumption, rfl⟩
  · exact .inr ⟨by omega, rfl⟩

/-- The host's list is no operand of a check, so the received bytes arrive the same whatever it holds. -/
theorem pushRx_withPending (s : State) (d : Byte) (p : List HostEvent) :
    pushRx { s with pending := p } d = { pushRx s d with pending := p } := by
  unfold pushRx
  split <;> rfl

theorem pushRxBytes_withPending (bytes : List Byte) (s : State) (p : List HostEvent) :
    pushRxBytes { s with pending := p } bytes = { pushRxBytes s bytes with pending := p } := by
  induction bytes generalizing s with
  | nil => rfl
  | cons d ds ih => simp only [pushRxBytes, pushRx_withPending, ih]

/-- `pushRxBytes` leaves the parameters, the host's list and the reset input alone. -/
theorem pushRxBytes_frame (bytes : List Byte) (s : State) :
    (pushRxBytes s bytes).cfg = s.cfg ∧ (pushRxBytes s bytes).pending = s.pending
      ∧ (pushRxBytes s bytes).resetPin = s.resetPin := by
  induction bytes generalizing s with
  | nil => exact ⟨rfl, rfl, rfl⟩
  | cons d ds ih => simpa [pushRxBytes] using ih (pushRx s d)

/-- Everything `pushRxBytes` can do to at least one byte (42_decoder.md R157). -/
theorem pushRxBytes_eq (l : List Byte) (s : State) (hl : l ≠ []) (hc : s.rx.length ≤ s.cfg.rxCap) :
    pushRxBytes s l = { s with
       rx := (s.rx ++ l).take s.cfg.rxCap, rxOvf := s.rxOvf || decide (s.cfg.rxCap < s.rx.length + l.length)
       result := .none, ackOk := false, crcOk := false, lenOk := false } := by
  induction l generalizing s with
  | nil => exact absurd rfl hl
  | cons d l ih =>
    have step1 : pushRx s d = { s with rx := (s.rx ++ [d]).take s.cfg.rxCap, rxOvf := s.rxOvf || decide (s.cfg.rxCap < s.rx.length + 1), result := .none, ackOk := false, crcOk := false, lenOk := false } := by
      rcases pushRx_cases s d with ⟨h, e⟩ | ⟨h, e⟩ <;> rw [e]
      · have : ¬ s.cfg.rxCap < s.rx.length + 1 := by omega
        simp only [clearVerdict, this, decide_false, Bool.or_false]
        rw [List.take_of_length_le (by simp; omega)]
      · have h2 : s.cfg.rxCap < s.rx.length + 1 := by omega
        simp only [clearVerdict, h2, decide_true, Bool.or_true]
        rw [List.take_append_of_le_length h, List.take_of_length_le hc]
    by_cases hl' : l = []
    · subst hl'; simp only [pushRxBytes]; rw [step1]; simp
    · simp only [pushRxBytes]
      rw [ih (pushRx s d) hl' (by rw [step1]; simp)]
      rw [step1]
      have hpos : 0 < l.length := List.length_pos_iff.mpr hl'
      congr 1
      · show ((s.rx ++ [d]).take s.cfg.rxCap ++ l).take s.cfg.rxCap = (s.rx ++ d :: l).take s.cfg.rxCap
        rcases Nat.lt_or_ge s.rx.length s.cfg.rxCap with h | h
        · rw [List.take_of_length_le (l := s.rx ++ [d]) (by simp; omega)]; simp
        · have e : s.cfg.rxCap = s.rx.length := by omega
          simp [e]
      · show (s.rxOvf || decide (s.cfg.rxCap < s.rx.length + 1) || decide (s.cfg.rxCap < ((s.rx ++ [d]).take s.cfg.rxCap).length + l.length)) = (s.rxOvf || decide (s.cfg.rxCap < s.rx.length + (d::l).length))
        rw [Bool.or_assoc]; congr 1
        rw [← Bool.decide_or]
        apply decide_eq_decide.mpr
        simp only [List.length_take, List.length_append, List.length_cons, List.length_nil, Nat.min_def]
        split <;> omega

/-- The meaning of an instruction does not look at what the host does next. -/
theorem exec_withPending (i : Instr) (s t : State) (p : List HostEvent) (h : exec i s = .next t) :
    exec i { s with pending := p } = .next { t with pending := p } := by
  cases i
  case rdTxDout =>
    simp only [exec] at h ⊢
    rcases execRdTxDout_cases s with ⟨hlt, he⟩ | ⟨hle, he⟩ <;> rw [he] at h <;> cases h
    · simp [execRdTxDout, hlt, answer, txByte]
    · simp [execRdTxDout, Nat.not_lt.mpr hle, answer]
  case wrRxDin d =>
    simp only [exec, execWrRxDin, noData_eq_next, pushRx_withPending] at h ⊢
    subst h; rfl
  case respAck rest =>
    simp only [exec, execRespAck, noData_eq_next, pushRxBytes_withPending] at h ⊢
    subst h; rfl
  all_goals cases h; rfl

/-- An instruction leaves the parameters, the host's list and the reset input alone. -/
theorem exec_frame (i : Instr) (s t : State) (h : exec i s = .next t) :
    t.cfg = s.cfg ∧ t.pending = s.pending ∧ t.resetPin = s.resetPin := by
  cases i
  case rdTxDout =>
    simp only [exec] at h
    rcases execRdTxDout_cases s with ⟨_, he⟩ | ⟨_, he⟩ <;> rw [he] at h <;> cases h <;> exact ⟨rfl, rfl, rfl⟩
  case wrRxDin d =>
    simp only [exec, execWrRxDin, noData_eq_next] at h
    subst h; simp
  case respAck rest =>
    simp only [exec, execRespAck, noData_eq_next] at h
    subst h; exact pushRxBytes_frame _ s
  all_goals cases h; exact ⟨rfl, rfl, rfl⟩

/-- Every instruction answers a next state: nothing in the block faults or refuses (30_encoding.md R72, R73). -/
theorem exec_answers (i : Instr) (s : State) : ∃ t, exec i s = .next t := by
  cases i
  case rdTxDout => rcases execRdTxDout_cases s with ⟨_, he⟩ | ⟨_, he⟩ <;> exact ⟨_, he⟩
  all_goals exact ⟨_, rfl⟩

/-- A run whose first step answers a next state goes on from there. -/
theorem run_of_step (k : Nat) (s t : State) (h : step s = .next t) :
    Host.Core.run Sys2Proof.core (k + 1) s = Host.Core.run Sys2Proof.core k t := by
  have hc : Sys2Proof.core.step s = .next t := h
  simp only [Host.Core.run, hc]

/-- One word at the head of a run, the reset input released. -/
theorem runWords_cons (w : BusWord) (ws : List BusWord) (s t : State) (hpin : s.resetPin = false)
    (h : exec (decodeBus w) s = .next t) : runWords (w :: ws) s = runWords ws t := by
  have hp := exec_withPending _ _ _ (issueWords ws ++ s.pending) h
  have hf := exec_frame _ _ _ h
  refine run_of_step ws.length { s with pending := issueWords (w :: ws) ++ s.pending }
    { t with pending := issueWords ws ++ t.pending } ?_
  rw [hf.2.1, ← hp]
  simp [step, issueWords, hpin, decode]

@[simp] theorem runWords_nil (s : State) : runWords [] s = .next s := rfl

/-- A run of two lists of words is the run of the second from where the first ended. -/
theorem runWords_append (ws vs : List BusWord) (s t : State) (hpin : s.resetPin = false)
    (h : runWords ws s = .next t) : runWords (ws ++ vs) s = runWords vs t := by
  induction ws generalizing s with
  | nil => cases h; rfl
  | cons w ws ih =>
    obtain ⟨u, hu⟩ := exec_answers (decodeBus w) s
    rw [runWords_cons w ws s u hpin hu] at h
    rw [List.cons_append, runWords_cons w _ s u hpin hu]
    exact ih u ((exec_frame _ _ _ hu).2.2.trans hpin) h

/-- Writes whose run answers a next state leave that state. -/
theorem writeWords_of_run (ws : List BusWord) (s t : State) (h : runWords ws s = .next t) :
    writeWords ws s = some t := by
  simp [writeWords, h]

@[simp] theorem readWords_nil (s : State) : readWords [] s = some ([], s) := rfl

/-- One read at the head of a list of reads, the reset input released. -/
theorem readWords_cons (w : BusWord) (ws : List BusWord) (s t : State) (b : Byte) (hpin : s.resetPin = false)
    (h : exec (decodeBus w) s = .next t) (hb : t.rdata = some b) :
    readWords (w :: ws) s = (readWords ws t).map fun p => (b :: p.1, p.2) := by
  have hw : writeWords [w] s = some t := writeWords_of_run _ _ _ (runWords_cons w [] s t hpin h)
  rw [readWords, hw]
  simp only [hb]
  cases readWords ws t <;> rfl

/-- Everything a step that answers a next state can have done (70_reset_and_hazards.md R240; log 1). -/
theorem step_cases (s t : State) (h : step s = .next t) :
    (s.pending = [] ∧ t = s)
      ∨ (∃ rest, s.pending = .powerOn :: rest ∧ t = { resetBlock { s with pending := rest } with rdata := none })
      ∨ (∃ rest, s.pending = .assertReset :: rest
          ∧ t = { resetBlock { s with pending := rest } with resetPin := true, rdata := none })
      ∨ (∃ rest, s.pending = .releaseReset :: rest
          ∧ t = { s with pending := rest, resetPin := false, rdata := none })
      ∨ ∃ e rest i, s.pending = .issue e :: rest ∧ s.resetPin = false ∧ decode e = .ok i
          ∧ exec i { s with pending := rest } = .next t := by
  unfold step at h
  split at h
  · cases h; exact .inl ⟨by assumption, rfl⟩
  · cases h; exact .inr (.inl ⟨_, by assumption, rfl⟩)
  · cases h; exact .inr (.inr (.inl ⟨_, by assumption, rfl⟩))
  · cases h; exact .inr (.inr (.inr (.inl ⟨_, by assumption, rfl⟩)))
  · split at h
    · cases h
    rename_i hpin
    split at h
    · exact .inr (.inr (.inr (.inr ⟨_, _, _, by assumption, by simpa using hpin, by assumption, h⟩)))
    · cases h

end Sys2Proof.Machine
end

