-- ==== Sys2Proof/Laws/PerInstr.lean ====
section
/-! SUPPORT. One lemma per instruction: its encoding has the form the opcode table gives its row (format "bus" or a
wire frame of at least one byte). -/

namespace Sys2Proof.Laws.Encoding

/-- A host transaction encodes to a transaction word, a wire frame to a non-empty list of bytes (30_encoding.md R70,
R80, R83). -/
def Statement (i : Sys2Proof.Instr) : Prop :=
  (i.isBus = true ∧ ∃ w, Sys2Proof.encode i = .bus w) ∨ (i.isBus = false ∧ ∃ b bs, Sys2Proof.encode i = .frame (b :: bs))

theorem nop : Statement (.nop) := .inl ⟨rfl, _, rfl⟩
theorem crcInit : Statement (.crcInit) := .inl ⟨rfl, _, rfl⟩
theorem encRead : Statement (.encRead) := .inl ⟨rfl, _, rfl⟩
theorem encWrite : Statement (.encWrite) := .inl ⟨rfl, _, rfl⟩
theorem txRewind : Statement (.txRewind) := .inl ⟨rfl, _, rfl⟩
theorem decStart : Statement (.decStart) := .inl ⟨rfl, _, rfl⟩
theorem decEndRead : Statement (.decEndRead) := .inl ⟨rfl, _, rfl⟩
theorem decEndWrite : Statement (.decEndWrite) := .inl ⟨rfl, _, rfl⟩
theorem clrCmderr : Statement (.clrCmderr) := .inl ⟨rfl, _, rfl⟩
theorem softReset : Statement (.softReset) := .inl ⟨rfl, _, rfl⟩
theorem cmdRsvd (code : Sys2Proof.Byte) : Statement (.cmdRsvd code) := .inl ⟨rfl, _, rfl⟩
theorem wrCrcDin (d : Sys2Proof.Byte) : Statement (.wrCrcDin d) := .inl ⟨rfl, _, rfl⟩
theorem wrAddrHi (d : Sys2Proof.Byte) : Statement (.wrAddrHi d) := .inl ⟨rfl, _, rfl⟩
theorem wrAddrLo (d : Sys2Proof.Byte) : Statement (.wrAddrLo d) := .inl ⟨rfl, _, rfl⟩
theorem wrParam (d : Sys2Proof.Byte) : Statement (.wrParam d) := .inl ⟨rfl, _, rfl⟩
theorem wrRxDin (d : Sys2Proof.Byte) : Statement (.wrRxDin d) := .inl ⟨rfl, _, rfl⟩
theorem wrPidx (d : Sys2Proof.Byte) : Statement (.wrPidx d) := .inl ⟨rfl, _, rfl⟩
theorem rdZero (a : Sys2Proof.RegAddr) : Statement (.rdZero a) := .inl ⟨rfl, _, rfl⟩
theorem rdStatus : Statement (.rdStatus) := .inl ⟨rfl, _, rfl⟩
theorem rdCrcHi : Statement (.rdCrcHi) := .inl ⟨rfl, _, rfl⟩
theorem rdCrcLo : Statement (.rdCrcLo) := .inl ⟨rfl, _, rfl⟩
theorem rdAddrHi : Statement (.rdAddrHi) := .inl ⟨rfl, _, rfl⟩
theorem rdAddrLo : Statement (.rdAddrLo) := .inl ⟨rfl, _, rfl⟩
theorem rdParam : Statement (.rdParam) := .inl ⟨rfl, _, rfl⟩
theorem rdPidx : Statement (.rdPidx) := .inl ⟨rfl, _, rfl⟩
theorem rdTxDout : Statement (.rdTxDout) := .inl ⟨rfl, _, rfl⟩
theorem rdTxLeft : Statement (.rdTxLeft) := .inl ⟨rfl, _, rfl⟩
theorem rdPayload : Statement (.rdPayload) := .inl ⟨rfl, _, rfl⟩
theorem rdRxlenLo : Statement (.rdRxlenLo) := .inl ⟨rfl, _, rfl⟩
theorem rdRxlenHi : Statement (.rdRxlenHi) := .inl ⟨rfl, _, rfl⟩
theorem wrIgnored (a : Sys2Proof.RegAddr) (d : Sys2Proof.Byte) : Statement (.wrIgnored a d) := .inl ⟨rfl, _, rfl⟩
theorem cmdRead (a : Sys2Proof.Half) (c : Sys2Proof.Byte) : Statement (.cmdRead a c) := .inr ⟨rfl, _, _, rfl⟩
theorem cmdWrite (a : Sys2Proof.Half) (v : Sys2Proof.Byte) : Statement (.cmdWrite a v) := .inr ⟨rfl, _, _, rfl⟩
theorem respAck (rest : List Sys2Proof.Byte) : Statement (.respAck rest) := .inr ⟨rfl, _, _, rfl⟩

end Sys2Proof.Laws.Encoding
end

