-- ==== Sys2Proof/Tests/Slice0.lean ====
section
/-! SUPPORT. Tests whose expected values stand in the spec (40_crc.md R102; 95_test_vectors.md; the examples of the
rules), and one witness for the hypotheses of every statement that has some. -/

namespace Sys2Proof.Tests.Slice0

-- Many small closed theorems: one after the other, or their threads pass the memory limit of a compile.
set_option Elab.async false

open Sys2Proof Sys2Proof.Machine

/-- Reset, at the parameters given. -/
def blockWith (cap : Nat) (prio : ErrPriority) : State :=
  { State.reset with cfg := { rxCap := cap, errPriority := prio } }

/-- Reset with the response stored and PARAM set. -/
def received (rx : List Byte) (n : Byte) : State := { State.reset with rx := rx, param := n }

/-- The state an instruction leaves; reset where it leaves none. -/
def after (i : Instr) (s : State) : State :=
  match exec i s with
  | .next t => t
  | _ => State.reset

/-- The state one step leaves from what the host does first; reset where it leaves none. -/
def afterEvent (ev : HostEvent) (s : State) : State :=
  match step { s with pending := [ev] } with
  | .next t => t
  | _ => State.reset

/-- The byte an instruction answers. -/
def answerOf (i : Instr) (s : State) : Option Byte := (after i s).rdata

/-- The refusal of one step, if it refuses. -/
def refusalOf (s : State) : Option Refusal :=
  match step s with
  | .refused r => some r
  | _ => none

/-- The response of 95_test_vectors.md L1.4. -/
def goodRead : List Byte := [0x02, 0x00, 0x00, 0x03, 0xAA, 0x55, 0x0F, 0xE1, 0x24]

/-- The write ack of V-D09. -/
def goodWrite : List Byte := [0x02, 0x00, 0x00, 0x01, 0x00, 0x33, 0x31]

/-- The block after the verdict OK of V-D04. -/
def acceptedRead : State :=
  { received goodRead 0x03 with
    result := .ok, ackOk := true, crcOk := true, lenOk := true, decKind := some .read, decN := 0x03 }

/-- The frame of V-E04 held, with k bytes read out. -/
def heldFrame (k : Nat) : State :=
  { State.reset with tx := #v[0x7E, 0x00, 0x07, 0x01, 0x00, 0xE1, 0x05, 0x62, 0x46], txLen := 9, txIdx := k }

/-! Well-formedness: one ill-formed term for each check (R75; R195; R196). -/

theorem test_wf_refuses_a_defined_code : (Instr.cmdRsvd 0x09).wf = false ∧ (Instr.cmdRsvd 0x0A).wf = true := by decide
theorem test_wf_refuses_a_nonzero_read : (Instr.rdZero 0x1).wf = false ∧ (Instr.rdZero 0xF).wf = true := by decide
theorem test_wf_refuses_a_writable_address :
    (Instr.wrIgnored 0x5 0x00).wf = false ∧ (Instr.wrIgnored 0x1 0x00).wf = true := by decide

/-! Decoding: every row of the opcode table, its word written out as {we, a, d} (R70, R74, R75, R77). -/

theorem test_decode_commands :
    [0b1000000000000, 0b1000000000001, 0b1000000000010, 0b1000000000011, 0b1000000000100,
      0b1000000000101, 0b1000000000110, 0b1000000000111, 0b1000000001000, 0b1000000001001].map decodeBus
    = [.nop, .crcInit, .encRead, .encWrite, .txRewind, .decStart, .decEndRead, .decEndWrite, .clrCmderr, .softReset] := by
  decide
theorem test_decode_reserved_codes :
    [0b1000000001010, 0b1000000001100, 0b1000000010000, 0b1000000100000, 0b1000001000000, 0b1000010000000].map decodeBus
    = [.cmdRsvd 0x0A, .cmdRsvd 0x0C, .cmdRsvd 0x10, .cmdRsvd 0x20, .cmdRsvd 0x40, .cmdRsvd 0x80] := by decide
theorem test_decode_writes :
    [0b1010010100101, 0b1010100010010, 0b1011000110100, 0b1011110101011, 0b1100000000010, 0b1100111111111].map decodeBus
    = [.wrCrcDin 0xA5, .wrAddrHi 0x12, .wrAddrLo 0x34, .wrParam 0xAB, .wrRxDin 0x02, .wrPidx 0xFF] := by decide
theorem test_decode_ignored_writes :
    [0b1000111111111, 0b1001000000001, 0b1001100000000, 0b1101000000000, 0b1101100000000, 0b1110000000000,
      0b1110100000000, 0b1111000000000, 0b1111110000001].map decodeBus
    = [.wrIgnored 0x1 0xFF, .wrIgnored 0x2 0x01, .wrIgnored 0x3 0x00, .wrIgnored 0xA 0x00, .wrIgnored 0xB 0x00,
        .wrIgnored 0xC 0x00, .wrIgnored 0xD 0x00, .wrIgnored 0xE 0x00, .wrIgnored 0xF 0x81] := by decide
theorem test_decode_reads :
    [0b0000100000000, 0b0001000000000, 0b0001100000000, 0b0010100000000, 0b0011000000000, 0b0011100000000,
      0b0100100000000, 0b0101000000000, 0b0101100000000, 0b0110011111111, 0b0110100000000, 0b0111000000000].map decodeBus
    = [.rdStatus, .rdCrcHi, .rdCrcLo, .rdAddrHi, .rdAddrLo, .rdParam, .rdPidx, .rdTxDout, .rdTxLeft, .rdPayload,
        .rdRxlenLo, .rdRxlenHi] := by decide
theorem test_decode_zero_reads :
    [0b0000000000000, 0b0010000000000, 0b0100000000000, 0b0111111111111].map decodeBus
    = [.rdZero 0x0, .rdZero 0x4, .rdZero 0x8, .rdZero 0xF] := by decide

/-- V-E01 and V-E07, and a response frame. -/
theorem test_decode_frames :
    decodeFrame [0x7E, 0x00, 0x07, 0x01, 0x00, 0x00, 0x03, 0x21, 0x03] = .ok (.cmdRead 0x0000 0x03)
    ∧ decodeFrame [0x7E, 0x00, 0x08, 0x01, 0x00, 0xD9, 0x55, 0xD1, 0x76] = .ok (.cmdWrite 0x00D9 0x55)
    ∧ decodeFrame goodWrite = .ok (.respAck [0x00, 0x00, 0x01, 0x00, 0x33, 0x31]) := by decide +kernel
theorem test_encode_frames :
    encode (.cmdRead 0x00E1 0x05) = .frame [0x7E, 0x00, 0x07, 0x01, 0x00, 0xE1, 0x05, 0x62, 0x46]
    ∧ encode (.cmdWrite 0xFFFF 0xFF) = .frame [0x7E, 0x00, 0x08, 0x01, 0xFF, 0xFF, 0xFF, 0xA6, 0xF5] := by decide +kernel

/-- Each reason for which bytes are no frame (R80-R83; log 7). -/
theorem test_decode_rejects_by_name :
    decodeFrame [] = .error .emptyFrame
    ∧ decodeFrame [0x03, 0x00] = .error .unknownFirstByte
    ∧ decodeFrame [0x7E, 0x00, 0x07] = .error .wrongFrameLength
    ∧ decodeFrame [0x7E, 0x01, 0x07, 0x01, 0x00, 0x00, 0x03, 0x21, 0x03] = .error .wrongFrameConstant
    ∧ decodeFrame [0x7E, 0x00, 0x07, 0x02, 0x00, 0x00, 0x03, 0x21, 0x03] = .error .wrongFrameConstant
    ∧ decodeFrame [0x7E, 0x00, 0x07, 0x01, 0x00, 0x00, 0x03, 0x20, 0x03] = .error .wrongFrameCrc
    ∧ decodeFrame (commandFrameBytes 0x09 0x0000 0x03) = .error .unknownOp := by decide +kernel

/-- The opcode table's numbering, and a word above 13 bits (log 7). -/
theorem test_table_words :
    decodeTableWord 16 0x1001 = some .crcInit ∧ decodeTableWord 16 0x0CFF = some .rdPayload
    ∧ decodeTableWord 8 0x02 = some (.respAck []) ∧ decodeTableWord 16 0x2000 = none
    ∧ decodeTableWord 72 0x0321_03_0000_01_07_00_7E = some (.cmdRead 0x0000 0x03) := by decide +kernel
theorem test_fetch_word_runs_next :
    step (State.reset.withFetchWord 16 0x100A) = .next { State.reset with cmdErr := true } := by rfl
theorem test_fetch_frame_runs_next :
    step (State.reset.withFetchWord 8 0x02) = .next { State.reset with rx := [0x02] } := by rfl

/-! The CRC table as R102 lists it. -/

theorem test_crc_table_0 :
    (List.range 64).map (fun i => crcTable (BitVec.ofNat 8 (0x00 + i)))
    = [0x0000, 0x1021, 0x2042, 0x3063, 0x4084, 0x50A5, 0x60C6, 0x70E7,
        0x8108, 0x9129, 0xA14A, 0xB16B, 0xC18C, 0xD1AD, 0xE1CE, 0xF1EF,
        0x1231, 0x0210, 0x3273, 0x2252, 0x52B5, 0x4294, 0x72F7, 0x62D6,
        0x9339, 0x8318, 0xB37B, 0xA35A, 0xD3BD, 0xC39C, 0xF3FF, 0xE3DE,
        0x2462, 0x3443, 0x0420, 0x1401, 0x64E6, 0x74C7, 0x44A4, 0x5485,
        0xA56A, 0xB54B, 0x8528, 0x9509, 0xE5EE, 0xF5CF, 0xC5AC, 0xD58D,
        0x3653, 0x2672, 0x1611, 0x0630, 0x76D7, 0x66F6, 0x5695, 0x46B4,
        0xB75B, 0xA77A, 0x9719, 0x8738, 0xF7DF, 0xE7FE, 0xD79D, 0xC7BC] := by decide +kernel
theorem test_crc_table_1 :
    (List.range 64).map (fun i => crcTable (BitVec.ofNat 8 (0x40 + i)))
    = [0x48C4, 0x58E5, 0x6886, 0x78A7, 0x0840, 0x1861, 0x2802, 0x3823,
        0xC9CC, 0xD9ED, 0xE98E, 0xF9AF, 0x8948, 0x9969, 0xA90A, 0xB92B,
        0x5AF5, 0x4AD4, 0x7AB7, 0x6A96, 0x1A71, 0x0A50, 0x3A33, 0x2A12,
        0xDBFD, 0xCBDC, 0xFBBF, 0xEB9E, 0x9B79, 0x8B58, 0xBB3B, 0xAB1A,
        0x6CA6, 0x7C87, 0x4CE4, 0x5CC5, 0x2C22, 0x3C03, 0x0C60, 0x1C41,
        0xEDAE, 0xFD8F, 0xCDEC, 0xDDCD, 0xAD2A, 0xBD0B, 0x8D68, 0x9D49,
        0x7E97, 0x6EB6, 0x5ED5, 0x4EF4, 0x3E13, 0x2E32, 0x1E51, 0x0E70,
        0xFF9F, 0xEFBE, 0xDFDD, 0xCFFC, 0xBF1B, 0xAF3A, 0x9F59, 0x8F78] := by decide +kernel
theorem test_crc_table_2 :
    (List.range 64).map (fun i => crcTable (BitVec.ofNat 8 (0x80 + i)))
    = [0x9188, 0x81A9, 0xB1CA, 0xA1EB, 0xD10C, 0xC12D, 0xF14E, 0xE16F,
        0x1080, 0x00A1, 0x30C2, 0x20E3, 0x5004, 0x4025, 0x7046, 0x6067,
        0x83B9, 0x9398, 0xA3FB, 0xB3DA, 0xC33D, 0xD31C, 0xE37F, 0xF35E,
        0x02B1, 0x1290, 0x22F3, 0x32D2, 0x4235, 0x5214, 0x6277, 0x7256,
        0xB5EA, 0xA5CB, 0x95A8, 0x8589, 0xF56E, 0xE54F, 0xD52C, 0xC50D,
        0x34E2, 0x24C3, 0x14A0, 0x0481, 0x7466, 0x6447, 0x5424, 0x4405,
        0xA7DB, 0xB7FA, 0x8799, 0x97B8, 0xE75F, 0xF77E, 0xC71D, 0xD73C,
        0x26D3, 0x36F2, 0x0691, 0x16B0, 0x6657, 0x7676, 0x4615, 0x5634] := by decide +kernel
theorem test_crc_table_3 :
    (List.range 64).map (fun i => crcTable (BitVec.ofNat 8 (0xC0 + i)))
    = [0xD94C, 0xC96D, 0xF90E, 0xE92F, 0x99C8, 0x89E9, 0xB98A, 0xA9AB,
        0x5844, 0x4865, 0x7806, 0x6827, 0x18C0, 0x08E1, 0x3882, 0x28A3,
        0xCB7D, 0xDB5C, 0xEB3F, 0xFB1E, 0x8BF9, 0x9BD8, 0xABBB, 0xBB9A,
        0x4A75, 0x5A54, 0x6A37, 0x7A16, 0x0AF1, 0x1AD0, 0x2AB3, 0x3A92,
        0xFD2E, 0xED0F, 0xDD6C, 0xCD4D, 0xBDAA, 0xAD8B, 0x9DE8, 0x8DC9,
        0x7C26, 0x6C07, 0x5C64, 0x4C45, 0x3CA2, 0x2C83, 0x1CE0, 0x0CC1,
        0xEF1F, 0xFF3E, 0xCF5D, 0xDF7C, 0xAF9B, 0xBFBA, 0x8FD9, 0x9FF8,
        0x6E17, 0x7E36, 0x4E55, 0x5E74, 0x2E93, 0x3EB2, 0x0ED1, 0x1EF0] := by decide +kernel

/-- V-C04 to V-C15 and L1.2. -/
theorem test_crc_vectors :
    crc16 [0x01] = 0x1021 ∧ crc16 [0x80] = 0x9188 ∧ crc16 [0xFF] = 0x1EF0 ∧ crc16 [0x02, 0x00] = 0x6662
    ∧ crc16 [0xFF, 0xFF] = 0x1D0F
    ∧ crc16 [0x31, 0x32, 0x33, 0x34, 0x35, 0x36, 0x37, 0x38, 0x39] = 0x31C3
    ∧ crc16 [0x31, 0x32, 0x33, 0x34, 0x35, 0x36, 0x37, 0x38, 0x39, 0x31, 0xC3] = 0x0000
    ∧ crc16 [0x07, 0x01, 0x00, 0x00, 0x03] = 0x2103 ∧ crc16 [0x08, 0x01, 0x00, 0xD9, 0x55] = 0xD176
    ∧ crc16 [0x00, 0x03, 0xAA, 0x55, 0x0F] = 0xE124 ∧ crc16 [0x01, 0x10, 0x21] = 0x0000 := by decide +kernel

/-! One step of each instruction. -/

/-- V-C17 and V-C19, and the examples of R104, R106, R107. -/
theorem test_crc_family :
    (after (.wrCrcDin 0x01) { State.reset with crc := 0x1021 }).crc = 0x2310
    ∧ (after .crcInit { State.reset with crc := 0x31C3 }).crc = 0x0000
    ∧ answerOf .rdCrcHi { State.reset with crc := 0x31C3 } = some 0x31
    ∧ answerOf .rdCrcLo { State.reset with crc := 0x31C3 } = some 0xC3 := by decide +kernel
/-- V-E12 and V-E09. -/
theorem test_encodes :
    (after .encRead State.reset).tx.toList = [0x7E, 0x00, 0x07, 0x01, 0x00, 0x00, 0x01, 0x01, 0x41]
    ∧ (after .encWrite { State.reset with addrHi := 0xFF, addrLo := 0xFF, param := 0xFF }).tx.toList
      = [0x7E, 0x00, 0x08, 0x01, 0xFF, 0xFF, 0xFF, 0xA6, 0xF5]
    ∧ statusByte (after .encRead State.reset) = 0x80 := by decide +kernel
/-- V-E04, V-E12, V-E13: the first byte, the last byte, past the end, and no frame. -/
theorem test_tx_dout :
    answerOf .rdTxDout (heldFrame 0) = some 0x7E ∧ answerOf .rdTxDout (heldFrame 8) = some 0x46
    ∧ (after .rdTxDout (heldFrame 8)).txIdx = 9
    ∧ answerOf .rdTxDout (heldFrame 9) = some 0x00 ∧ (after .rdTxDout (heldFrame 9)).txIdx = 9
    ∧ answerOf .rdTxDout State.reset = some 0x00 := by decide
/-- V-E12 and V-E13. -/
theorem test_tx_left_and_rewind :
    answerOf .rdTxLeft (heldFrame 3) = some 0x06 ∧ answerOf .rdTxLeft (heldFrame 0) = some 0x09
    ∧ answerOf .rdTxLeft (heldFrame 9) = some 0x00
    ∧ (after .txRewind (heldFrame 9)).txIdx = 0 ∧ (after .txRewind State.reset).txLen = 0 := by decide
/-- V-E16. -/
theorem test_operand_registers :
    (after (.wrAddrHi 0x12) State.reset).addrHi = 0x12 ∧ (after (.wrAddrLo 0x34) State.reset).addrLo = 0x34
    ∧ (after (.wrParam 0xAB) State.reset).param = 0xAB
    ∧ answerOf .rdAddrHi { State.reset with addrHi := 0x12 } = some 0x12
    ∧ answerOf .rdAddrLo { State.reset with addrLo := 0x34 } = some 0x34
    ∧ answerOf .rdParam State.reset = some 0x01 := by decide
/-- V-D04, V-D06, V-D07, V-D08, V-D05, V-D01, V-D28, V-D15, V-D19: STATUS after DEC_END_READ. -/
theorem test_dec_end_read :
    statusByte (after .decEndRead (received goodRead 0x03)) = 0x1D
    ∧ statusByte (after .decEndRead (received [0x02, 0x00, 0x00, 0x03, 0xAA, 0x55, 0x0F, 0xE1, 0x25] 0x03)) = 0x17
    ∧ statusByte (after .decEndRead (received [0x03, 0x00, 0x00, 0x03, 0xAA, 0x55, 0x0F, 0xE1, 0x24] 0x03)) = 0x1A
    ∧ statusByte (after .decEndRead (received [0x03, 0x00, 0x00, 0x03, 0xAA, 0x55, 0x0F, 0xE1, 0x25] 0x03)) = 0x13
    ∧ statusByte (after .decEndRead (received [0x02, 0x00, 0x00] 0x03)) = 0x07
    ∧ statusByte (after .decEndRead (received [] 0x01)) = 0x02
    ∧ statusByte (after .decEndRead (received [0x02, 0x00, 0x00, 0x00, 0x00, 0x00] 0x00)) = 0x1D
    ∧ statusByte (after .decEndRead (received [0x02, 0x00, 0x00, 0x01, 0x3C, 0x77, 0x79, 0xB8] 0x01)) = 0x1D := by
  decide +kernel
/-- V-D09, V-D11, V-D20, V-D22, and V-D24 and V-D25 after the push: STATUS after DEC_END_WRITE. -/
theorem test_dec_end_write :
    statusByte (after .decEndWrite (received goodWrite 0x55)) = 0x1D
    ∧ statusByte (after .decEndWrite (received [0x02, 0x00, 0x00, 0x01, 0x00, 0x33, 0x30] 0x00)) = 0x17
    ∧ statusByte (after .decEndWrite (received [0x00, 0x00, 0x00, 0x00, 0x00, 0x00] 0x00)) = 0x1A
    ∧ statusByte (after .decEndWrite (received [0x02, 0x00, 0x00, 0x01, 0x00, 0x33] 0x00)) = 0x17
    ∧ statusByte (after .decEndWrite
        { blockWith 6 .crcFirst with rx := [0x02, 0x00, 0x00, 0x01, 0x00, 0x33], rxOvf := true }) = 0x27
    ∧ statusByte (after .decEndWrite
        { blockWith 6 .crcFirst with rx := [0x00, 0x00, 0x00, 0x01, 0x00, 0x33], rxOvf := true }) = 0x23
    ∧ statusByte (after .decEndWrite
        { blockWith 6 .ackFirst with rx := [0x00, 0x00, 0x00, 0x01, 0x00, 0x33], rxOvf := true }) = 0x22 := by
  decide +kernel
/-- V-D03 and V-D08 under ACK_FIRST. -/
theorem test_ack_first :
    (after .decEndRead { blockWith 261 .ackFirst with rx := [0x05] }).result = .noResponse
    ∧ (after .decEndRead { blockWith 261 .ackFirst with
        rx := [0x03, 0x00, 0x00, 0x03, 0xAA, 0x55, 0x0F, 0xE1, 0x25], param := 0x03 }).result = .noResponse := by
  decide +kernel
/-- V-D24, V-D26 and V-D29: the sixth byte fits, the seventh overflows; a byte after a verdict clears it. -/
theorem test_rx_din_and_dec_start :
    (after (.wrRxDin 0x33) { blockWith 6 .crcFirst with rx := [0x02, 0x00, 0x00, 0x01, 0x00] }).rx
      = [0x02, 0x00, 0x00, 0x01, 0x00, 0x33]
    ∧ (after (.wrRxDin 0x31) { blockWith 6 .crcFirst with rx := [0x02, 0x00, 0x00, 0x01, 0x00, 0x33] }).rx
      = [0x02, 0x00, 0x00, 0x01, 0x00, 0x33]
    ∧ statusByte (after (.wrRxDin 0x31) { blockWith 6 .crcFirst with rx := [0x02, 0x00, 0x00, 0x01, 0x00, 0x33] }) = 0x20
    ∧ statusByte (after (.wrRxDin 0x00) acceptedRead) = 0x00
    ∧ statusByte (after .decStart { acceptedRead with rxOvf := true }) = 0x00
    ∧ (after .decStart acceptedRead).rx = [] := by decide
/-- V-P01, V-P02, V-P03, V-P05. -/
theorem test_payload :
    answerOf .rdPayload acceptedRead = some 0xAA ∧ answerOf .rdPayload { acceptedRead with pidx := 0x02 } = some 0x0F
    ∧ answerOf .rdPayload { acceptedRead with pidx := 0x03 } = some 0x00
    ∧ answerOf .rdPayload { acceptedRead with result := .checksumError } = some 0x00
    ∧ (after .rdPayload { acceptedRead with result := .checksumError }).pidx = 0x01
    ∧ (after .rdPayload { acceptedRead with pidx := 0xFF }).pidx = 0x00 := by decide
/-- V-P04: a write returns nothing. -/
theorem test_payload_of_a_write : answerOf .rdPayload (after .decEndWrite (received goodWrite 0x00)) = some 0x00 := by
  decide +kernel
/-- V-P05 and V-D27. -/
theorem test_pidx_and_rxlen :
    (after (.wrPidx 0xFF) acceptedRead).pidx = 0xFF ∧ answerOf .rdPidx { State.reset with pidx := 0x04 } = some 0x04
    ∧ answerOf .rdRxlenHi (received (List.replicate 261 0x00) 0x00) = some 0x01
    ∧ answerOf .rdRxlenLo (received (List.replicate 261 0x00) 0x00) = some 0x05 := by decide +kernel
/-- V-K01, V-K02, V-K03. -/
theorem test_command_error :
    after .nop acceptedRead = acceptedRead
    ∧ statusByte (after (.cmdRsvd 0xFF) State.reset) = 0x40
    ∧ statusByte (after .clrCmderr { acceptedRead with cmdErr := true }) = 0x1D := by decide
/-- V-K04. -/
theorem test_soft_reset : after .softReset { acceptedRead with crc := 0x31C3, cmdErr := true } = State.reset := by decide
/-- V-K05, V-K06, and STATUS with every field set. -/
theorem test_no_effect_accesses :
    after (.wrIgnored 0x1 0xFF) acceptedRead = acceptedRead
    ∧ answerOf (.rdZero 0x4) { State.reset with crc := 0x31C3 } = some 0x00
    ∧ answerOf .rdStatus acceptedRead = some 0x1D
    ∧ answerOf .rdStatus { heldFrame 0 with
        cmdErr := true, rxOvf := true, result := .checksumError, ackOk := true } = some 0xE7 := by decide
/-- V-E04, V-E07 and V-D09: the wire-frame rows. -/
theorem test_wire_frames :
    (after (.cmdRead 0x00E1 0x05) State.reset).tx = (heldFrame 0).tx
    ∧ (after (.cmdWrite 0x00D9 0x55) State.reset).tx.toList
      = [0x7E, 0x00, 0x08, 0x01, 0x00, 0xD9, 0x55, 0xD1, 0x76]
    ∧ (after (.respAck [0x00, 0x00, 0x01, 0x00, 0x33, 0x31]) State.reset).rx = goodWrite := by decide +kernel
/-- R240 and 93 I22. -/
theorem test_reset_input :
    (afterEvent .assertReset acceptedRead).resetPin = true ∧ (afterEvent .assertReset acceptedRead).rx = []
    ∧ afterEvent .releaseReset { State.reset with resetPin := true } = State.reset
    ∧ (afterEvent .powerOn acceptedRead).result = .none
    ∧ refusalOf { State.reset with resetPin := true, pending := [.issue (.bus 0x1000)] } = some .transactionInReset
    ∧ refusalOf { State.reset with pending := [.issue (.frame [0x03])] }
      = some (.notAnInstruction .unknownFirstByte) := by decide
/-- P2 and P4, steps 1 to 4, V-E14, the example of R78 and its rejection of 256. -/
theorem test_assembler :
    (AsmLine.encRead 0x00E1 5).assemble = some [0x1500, 0x16E1, 0x1705, 0x1002]
    ∧ (AsmLine.wr .cmd 0x42).assemble = some [0x1042] ∧ (AsmLine.wr .param 256).assemble = none
    ∧ (AsmLine.rd (.num 16)).assemble = none ∧ (AsmLine.rd .payload).assemble = some [0x0C00]
    ∧ (AsmLine.wrCommand .encRead).assemble = some [0x1002] ∧ (AsmLine.seta 0x1234).assemble = some [0x1512, 0x1634]
    ∧ (AsmLine.encWrite 0x00D9 0x55).assemble = some [0x1500, 0x16D9, 0x1755, 0x1003] := by decide
/-- STATUS of V-D04, V-D01, V-D06, V-D07 and of reset: the branch of R224. -/
theorem test_branch :
    branchOf 0x1D = some .success ∧ branchOf 0x02 = some .noResponse ∧ branchOf 0x17 = some .checksumError
    ∧ branchOf 0x1A = some .noResponse ∧ branchOf 0x00 = none := by decide
/-- V-D04 with V-P01: Success reads the payload; V-D06 and V-P03: a failed exchange reads none. -/
theorem test_exchange_finish :
    let x : Exchange := { kind := .read, addr := 0x0000, param := 0x03, first := goodRead, retry := [] }
    (x.finish [] goodRead 0x1D acceptedRead).map (fun r => (r.ending, r.payload)) = some (.success, [0xAA, 0x55, 0x0F])
    ∧ (x.finish [] goodRead 0x17 acceptedRead).map (fun r => (r.ending, r.payload)) = some (.checksumError, []) := by
  decide +kernel
/-- P5: with RXLEN = 0 after the first read the retry is pushed, else it is not. -/
theorem test_exchange_receive :
    let x : Exchange := { kind := .read, addr := 0x0000, param := 0x03, first := [], retry := [0x02] }
    (x.receive State.reset).map (fun r => (r.1, r.2.rx)) = some ([0x02], [0x02])
    ∧ (({ x with first := [0x05] } : Exchange).receive State.reset).map (fun r => (r.1, r.2.rx))
      = some ([0x05], [0x05]) := by decide +kernel
/-- The order of P5, steps 14 to 27, with one byte in the retry. -/
theorem test_exchange_words :
    (Exchange.receiveWords { kind := .read, addr := 0x0000, param := 0x03, first := [], retry := [0x02] }
      ++ Exchange.judgeWords { kind := .read, addr := 0x0000, param := 0x03, first := [], retry := [0x02] })
    = [0x1005, 0x0D00, 0x0E00, 0x1802, 0x1006, 0x0100] := by decide

/-! Witnesses: for every statement with hypotheses, a state and operands that meet them all, at the boundary of each
clause's range. -/

theorem test_witness_CrcDetectsEverySingleBitFlip : 0 < [(0x07 : Byte)].length ∧ 7 < 8
    ∧ crc16 [0x07 ^^^ 1 <<< 7] ≠ crc16 [0x07] := by decide +kernel
theorem test_witness_CrcDinAfterInitComputesCrc16 : acceptedRead.resetPin = false := by decide
/-- One event for each writer. -/
theorem test_witness_CrcAccumulatorHasThreeWriters :
    let s (ev : HostEvent) := { State.reset with crc := 0x0001, pending := [ev] }
    (∃ t, step (s (.issue (.bus 0x1001))) = .next t ∧ t.crc ≠ 0x0001)
    ∧ (∃ t, step (s (.issue (.bus (wordOf 0x1400 0x00)))) = .next t ∧ t.crc ≠ 0x0001)
    ∧ (∃ t, step (s (.issue (.bus 0x1009))) = .next t ∧ t.crc ≠ 0x0001)
    ∧ (∃ t, step (s .powerOn) = .next t ∧ t.crc ≠ 0x0001)
    ∧ ∃ t, step (s .assertReset) = .next t ∧ t.crc ≠ 0x0001 :=
  ⟨⟨_, rfl, by decide +kernel⟩, ⟨_, rfl, by decide +kernel⟩, ⟨_, rfl, by decide⟩, ⟨_, rfl, by decide⟩, _, rfl, by decide⟩
theorem test_witness_CodecNeverSeesTheCrcAccumulator :
    Instr.encRead ≠ .rdCrcHi ∧ Instr.encRead ≠ .rdCrcLo ∧ ∃ t, exec .encRead acceptedRead = .next t :=
  ⟨by decide, by decide, _, rfl⟩
theorem test_witness_TxReadOutEffects :
    (heldFrame 8).TxInv ∧ (heldFrame 8).txIdx < (heldFrame 8).txLen
    ∧ (heldFrame 9).TxInv ∧ (heldFrame 9).txIdx = (heldFrame 9).txLen
    ∧ State.reset.TxInv ∧ State.reset.txIdx = State.reset.txLen := by decide
theorem test_witness_EncodedFrameReadsOutInWireOrder : (heldFrame 4).resetPin = false := by decide
theorem test_witness_RewindReplaysTheSentFrame :
    (heldFrame 9).resetPin = false ∧ (heldFrame 9).txLen = 9 ∧ (heldFrame 9).tx.toList[8]? = some 0x46
    ∧ (heldFrame 9).tx.toList[0]? = some 0x7E := by decide
theorem test_witness_WrittenOperandReadsBack :
    ∀ a ∈ [(0x5 : RegAddr), 0x6, 0x7, 0x9], State.reset.resetPin = false ∧ (a = 0x5 ∨ a = 0x6 ∨ a = 0x7 ∨ a = 0x9) := by
  decide
theorem test_witness_DecStartAndRxDinEffects :
    (received (List.replicate 260 0x00) 0x00).rx.length < (received (List.replicate 260 0x00) 0x00).cfg.rxCap
    ∧ (received (List.replicate 261 0x00) 0x00).cfg.rxCap ≤ (received (List.replicate 261 0x00) 0x00).rx.length := by
  decide +kernel
theorem test_witness_ReceivedBytesAreStoredInOrder : (blockWith 6 .ackFirst).resetPin = false := by decide
theorem test_witness_CheckFlagsSayWhatTheChecksFound :
    (after .decEndRead (received goodRead 0x03)).ackOk = true ∧ (after .decEndRead (received goodRead 0x03)).crcOk = true
    ∧ (after .decEndRead (received goodRead 0x04)).lenOk = false
    ∧ (after .decEndWrite (received [] 0x00)).ackOk = false
    ∧ Instr.wrRxDin 0x02 = .wrRxDin 0x02 := by decide +kernel
/-- A response for each clause; the two priorities differ on the last (V-D03). -/
theorem test_witness_VerdictFollowsTheChecks :
    (Instr.decEndRead = .decEndRead ∨ Instr.decEndRead = .decEndWrite)
    ∧ (received [] 0x03).rx = []
    ∧ (after .decEndRead (received goodRead 0x03)).crcOk = true ∧ (after .decEndRead (received goodRead 0x03)).ackOk = true
    ∧ (after .decEndRead (received [0x00, 0x00, 0x00, 0x00, 0x00, 0x00] 0x00)).crcOk = true
    ∧ (after .decEndRead (received [0x00, 0x00, 0x00, 0x00, 0x00, 0x00] 0x00)).ackOk = false
    ∧ (after .decEndRead (received [0x02] 0x01)).crcOk = false ∧ (after .decEndRead (received [0x02] 0x01)).ackOk = true
    ∧ (after .decEndRead (received [0x05] 0x01)).crcOk = false ∧ (after .decEndRead (received [0x05] 0x01)).ackOk = false
    ∧ (received [0x05] 0x01).cfg.errPriority = .crcFirst ∧ (blockWith 6 .ackFirst).cfg.errPriority = .ackFirst := by
  decide +kernel
theorem test_witness_DecEndIsRepeatable : (received goodRead 0x03).resetPin = false := by decide
/-- The full buffer of V-D24 and V-D25 meets the invariants, with both marks and both priorities. -/
theorem test_witness_OverflowedResponseIsNeverAccepted :
    ∀ prio ∈ [ErrPriority.crcFirst, .ackFirst], ∀ b ∈ [(0x02 : Byte), 0x00],
      let s := { blockWith 6 prio with rx := [b, 0x00, 0x00, 0x01, 0x00, 0x33], rxOvf := true }
      s.Inv ∧ s.rxOvf = true ∧ (b = 0x00 → s.rx.head? ≠ some 0x02) ∧ (b = 0x02 → s.rx.head? = some 0x02) := by
  decide
theorem test_witness_OverflowIsSticky :
    Instr.decEndRead ≠ .decStart ∧ Instr.decEndRead ≠ .softReset
    ∧ ∃ t, exec .decEndRead { acceptedRead with rxOvf := true } = .next t := ⟨by decide, by decide, _, rfl⟩
theorem test_witness_PayloadReadEffect :
    let last := { acceptedRead with pidx := 0x02 }
    let past := { acceptedRead with pidx := 0x03 }
    last.PayloadInv ∧ last.result = .ok ∧ last.decKind = some .read ∧ last.pidx.toNat < last.decN.toNat
    ∧ past.PayloadInv ∧ ¬ (past.result = .ok ∧ past.decKind = some .read ∧ past.pidx.toNat < past.decN.toNat) := by
  decide
theorem test_witness_PayloadIndexAndLengthEffects : acceptedRead.rx.length ≤ 65535 := by decide
/-- An empty payload in the smallest buffer, and 255 bytes in the default one. -/
theorem test_witness_ValidReadResponseYieldsItsPayload :
    (blockWith 6 .ackFirst).resetPin = false ∧ ([] : List Byte).length ≤ 255
    ∧ 6 + ([] : List Byte).length ≤ (blockWith 6 .ackFirst).cfg.rxCap
    ∧ (List.replicate 255 (0x3C : Byte)).length ≤ 255
    ∧ 6 + (List.replicate 255 (0x3C : Byte)).length ≤ State.reset.cfg.rxCap
    ∧ (List.replicate 255 (0x3C : Byte))[254]? = some 0x3C := by decide +kernel
theorem test_witness_CorruptedResponseIsRejected :
    State.reset.resetPin = false ∧ ([0xAA] : List Byte).length ≤ 255
    ∧ 6 + ([0xAA] : List Byte).length ≤ State.reset.cfg.rxCap
    ∧ pair 0x00 0x00 ≠ crc16 ([0x00, 0x01] ++ [0xAA])
    ∧ 0 < ([0x00, 0x01] ++ [0xAA] : List Byte).length ∧ 2 < ([0x00, 0x01] ++ [0xAA] : List Byte).length ∧ 7 < 8 := by
  decide +kernel
/-- V-D29. -/
theorem test_witness_AppendedZeroByteIsStillAccepted :
    let s := received goodRead 0x03
    s.resetPin = false ∧ s.rx.length < s.cfg.rxCap
    ∧ (∃ t, runWords [0x1006] s = .next t ∧ t.result = .ok) ∧ ∃ t, runWords [0x1007] s = .next t ∧ t.result = .ok :=
  ⟨by decide, by decide, ⟨_, rfl, by decide +kernel⟩, _, rfl, by decide +kernel⟩
theorem test_witness_ControlFamilyEffects :
    0x0A ≤ (0x0A : Byte).toNat ∧ 0x0A ≤ (0xFF : Byte).toNat
    ∧ (∀ a ∈ [(0x1 : RegAddr), 0x3, 0xA, 0xF], (1 ≤ a.toNat ∧ a.toNat ≤ 3) ∨ 10 ≤ a.toNat)
    ∧ ∀ a ∈ [(0x0 : RegAddr), 0x4, 0x8, 0xF], a = 0x0 ∨ a = 0x4 ∨ a = 0x8 ∨ a = 0xF := by decide
theorem test_witness_EveryResetLeavesTheSameBlock : acceptedRead.resetPin = false := by decide
theorem test_witness_RegistersReadTheirResetValues : (heldFrame 2).resetPin = false := by decide
theorem test_witness_DecodeInvertsEncode :
    (Instr.cmdRsvd 0x0A).wf = true ∧ (Instr.cmdRead 0xFFFF 0xFF).wf = true ∧ (Instr.respAck []).wf = true := by decide
theorem test_witness_EncodeInvertsDecode :
    decode (.bus 0x01FF) = .ok .rdStatus ∧ decode (.frame goodRead) = .ok (.respAck goodRead.tail)
    ∧ decode (.frame [0x7E, 0x00, 0x07, 0x01, 0x00, 0x00, 0x03, 0x21, 0x03]) = .ok (.cmdRead 0x0000 0x03) := by
  decide +kernel
theorem test_witness_StepRunsTheIssuedInstruction :
    let s := State.reset.withFetchWord 16 0x1405
    s.pending = [.issue (.bus 0x1405)] ∧ s.resetPin = false ∧ decode (.bus 0x1405) = .ok (.wrCrcDin 0x05)
    ∧ (Instr.wrCrcDin 0x05).wf = true ∧ State.reset.pending = [] := by decide
theorem test_witness_EveryTransactionCompletesInOneStep :
    let s := { State.reset with pending := [.issue (.bus 0x0100), .powerOn] }
    s.pending = .issue (.bus 0x0100) :: [.powerOn] ∧ s.resetPin = false := by decide
theorem test_witness_EveryStepKeepsTheStateInvariants :
    (acceptedRead.withFetchWord 16 0x0C00).Inv
    ∧ ∃ t, step (acceptedRead.withFetchWord 16 0x0C00) = .next t := ⟨by decide, _, rfl⟩
theorem test_witness_ResetMeetsTheStateInvariants :
    Config.default.wf ∧ ({ rxCap := 6, errPriority := .ackFirst } : Config).wf
    ∧ ({ rxCap := 65535, errPriority := .crcFirst } : Config).wf := by decide
theorem test_witness_EveryStepKeepsThePayloadInRange :
    (acceptedRead.withFetchWord 16 0x0C00).PayloadInv
    ∧ ∃ t, step (acceptedRead.withFetchWord 16 0x0C00) = .next t := ⟨by decide, _, rfl⟩
/-- One word that writes each of the four registers. -/
theorem test_witness_OperandAndIndexRegistersHaveTheirOwnWriters :
    (∃ t, exec (decodeBus 0x1512) State.reset = .next t ∧ t.addrHi ≠ State.reset.addrHi)
    ∧ (∃ t, exec (decodeBus 0x1634) State.reset = .next t ∧ t.addrLo ≠ State.reset.addrLo)
    ∧ (∃ t, exec (decodeBus 0x1709) State.reset = .next t ∧ t.param ≠ State.reset.param)
    ∧ ∃ t, exec (decodeBus 0x0C00) State.reset = .next t ∧ t.pidx ≠ State.reset.pidx :=
  ⟨⟨_, rfl, by decide⟩, ⟨_, rfl, by decide⟩, ⟨_, rfl, by decide⟩, _, rfl, by decide⟩
/-- One word for each clause. -/
theorem test_witness_StatusFlagsHaveTheirOwnWriters :
    let full := { blockWith 6 .crcFirst with rx := [0x02, 0x00, 0x00, 0x01, 0x00, 0x33] }
    (∃ t, exec (decodeBus 0x1006) State.reset = .next t ∧ t.result ≠ State.reset.result)
    ∧ (∃ t, exec (decodeBus 0x1831) full = .next t ∧ full.rxOvf = false ∧ t.rxOvf = true)
    ∧ (∃ t, exec (decodeBus 0x1005) { full with rxOvf := true } = .next t ∧ t.rxOvf = false)
    ∧ (∃ t, exec (decodeBus 0x100A) full = .next t ∧ full.cmdErr = false ∧ t.cmdErr = true)
    ∧ (∃ t, exec (decodeBus 0x1008) { full with cmdErr := true } = .next t ∧ t.cmdErr = false)
    ∧ ∃ t, exec (decodeBus 0x1007) full = .next t ∧ t.decKind ≠ full.decKind :=
  ⟨⟨_, rfl, by decide⟩, ⟨_, rfl, by decide⟩, ⟨_, rfl, by decide⟩, ⟨_, rfl, by decide⟩, ⟨_, rfl, by decide⟩,
    _, rfl, by decide⟩
/-- One word for each clause. -/
theorem test_witness_FrameBuffersHaveTheirOwnWriters :
    (∃ t, exec (decodeBus 0x1002) State.reset = .next t ∧ t.tx ≠ State.reset.tx)
    ∧ (∃ t, exec (decodeBus 0x0A00) (heldFrame 0) = .next t ∧ t.txIdx ≠ (heldFrame 0).txIdx)
    ∧ ∃ t, exec (decodeBus 0x1802) State.reset = .next t ∧ t.rx ≠ State.reset.rx :=
  ⟨⟨_, rfl, by decide +kernel⟩, ⟨_, rfl, by decide⟩, _, rfl, by decide⟩
theorem test_witness_OnlyTwoReadsHaveSideEffects :
    (0x9 : RegAddr) ≠ 0xA ∧ (0x9 : RegAddr) ≠ 0xC ∧ State.reset.resetPin = false
    ∧ ∀ a ∈ [(0x5 : RegAddr), 0x6, 0x7, 0x9], a = 0x5 ∨ a = 0x6 ∨ a = 0x7 ∨ a = 0x9 := by decide
theorem test_witness_TransactionDuringResetHasNoMove :
    let s := { State.reset with resetPin := true, pending := [.issue (.bus 0x0100)] }
    s.pending = .issue (.bus 0x0100) :: [] ∧ s.resetPin = true := by decide
theorem test_witness_WireFrameEffects :
    (received (List.replicate 261 0x00) 0x00).rx.length ≤ (received (List.replicate 261 0x00) 0x00).cfg.rxCap := by
  decide +kernel
theorem test_witness_WireFramesAreTheirExpansions : (received goodRead 0x03).resetPin = false := by decide
theorem test_witness_AssemblyLinesAreTheirWords :
    AsmReg.addr .rxlenHi = some 0xE ∧ AsmReg.addr (.num 15) = some 0xF ∧ 255 ≤ 255
    ∧ 255 < 256 ∧ 15 ≤ 15 ∧ 15 < 16 ∧ 256 ∈ [0x31, 256] ∧ 0xFFFF < 0x10000 ∧ 0xFF < 0x100 := by decide
/-- An exchange that fills the smallest buffer, and one that gets no byte twice. -/
theorem test_witness_HostExchangeEndsInTheVerdictOnItsResponse :
    let x : Exchange :=
      { kind := .write, addr := 0x00D9, param := 0x55, first := []
        retry := [0x02, 0x00, 0x00, 0x01, 0x10, 0x21] }
    (blockWith 6 .ackFirst).resetPin = false ∧ x.response.length ≤ (blockWith 6 .ackFirst).cfg.rxCap
    ∧ ({ x with retry := [] } : Exchange).first = [] ∧ ({ x with retry := [] } : Exchange).retry = []
    ∧ ({ x with retry := [] } : Exchange).response.length ≤ (blockWith 6 .ackFirst).cfg.rxCap := by decide
/-- A STATUS byte for each branch; the smallest and the largest RX_CAP; and each end (V-D04, V-D09, V-D01, V-D06). -/
theorem test_witness_ExchangeEndsAsItsStatusSays :
    (0xFD : Byte).toNat % 4 = 1 ∧ (0xFE : Byte).toNat % 4 = 2 ∧ (0xFF : Byte).toNat % 4 = 3 ∧ (0xFC : Byte).toNat % 4 = 0
    ∧ (blockWith 6 .ackFirst).resetPin = false ∧ (blockWith 6 .ackFirst).cfg.wf ∧ (blockWith 65535 .crcFirst).cfg.wf
    ∧ verdict .crcFirst .read 0x03 (goodRead.take 261) (decide (261 < goodRead.length)) = .ok
    ∧ verdict .ackFirst .write 0x00 (goodWrite.take 7) (decide (7 < goodWrite.length)) = .ok
    ∧ verdict .ackFirst .read 0x03 (([] : List Byte).take 6) (decide (6 < ([] : List Byte).length)) = .noResponse
    ∧ verdict .ackFirst .write 0x00 (goodWrite.take 6) (decide (6 < goodWrite.length)) = .checksumError := by
  decide +kernel

end Sys2Proof.Tests.Slice0
end

section
/-! How a step answers, said as an equation of `step` for the idle state and for an issued instruction (log 1). -/

namespace Sys2Proof.Machine

/-- The block never acts by itself (log 1). -/
theorem step_of_pending_nil (s : State) (hp : s.pending = []) : step s = .next s := by
  simp only [step, hp]

/-- The forward reading of the last case of `step_cases` (00_scope.md R17; 30_encoding.md R73). -/
theorem step_of_issue (s : State) (e : Encoded) (i : Instr) (rest : List HostEvent)
    (hp : s.pending = .issue e :: rest) (hpin : s.resetPin = false) (hdec : decode e = .ok i) :
    step s = exec i { s with pending := rest } := by
  simp [step, hp, hpin, hdec]

/-- Settles O38: the two equations of `step` above. Well-formedness of the instruction is not needed, since `step`
runs whatever `decode` answers. -/
theorem stepRunsTheIssuedInstruction : Obligations.StepRunsTheIssuedInstruction := by
  unfold Obligations.StepRunsTheIssuedInstruction
  constructor
  · intro s e i rest hp hpin hdec _
    exact step_of_issue s e i rest hp hpin hdec
  · exact step_of_pending_nil

end Sys2Proof.Machine
end

section
/-! The invariants of 10_state.md R47, kept by each operation of Ops.lean, then by each instruction, then by each step. -/

namespace Sys2Proof.Machine

/-- A state with no verdict and no check flag meets the verdict invariant, where its latches do. -/
theorem verdictInv_clearVerdict (s : State) (h : s.decKind = some .write → s.decN = 0x00) :
    (clearVerdict s).VerdictInv :=
  ⟨fun _ => ⟨rfl, rfl, rfl⟩, nofun, nofun, h⟩

theorem inv_resetBlock (s : State) (h : s.cfg.wf) : (resetBlock s).Inv :=
  ⟨h, ⟨Nat.le_refl 0, .inl rfl⟩, ⟨Nat.zero_le _, nofun⟩, fun _ => ⟨rfl, rfl, rfl⟩, nofun, nofun, nofun⟩

theorem payloadInv_resetBlock (s : State) : (resetBlock s).PayloadInv := nofun

theorem inv_encodeFrame (op : Byte) (s : State) (h : s.Inv) : (encodeFrame op s).Inv := by
  obtain ⟨hcfg, -, hrx, hverdict⟩ := h
  exact ⟨hcfg, ⟨Nat.zero_le 9, .inr rfl⟩, hrx, hverdict⟩

theorem inv_startDecode (s : State) (h : s.Inv) : (startDecode s).Inv := by
  obtain ⟨hcfg, htx, -, -⟩ := h
  exact ⟨hcfg, htx, ⟨Nat.zero_le _, nofun⟩, fun _ => ⟨rfl, rfl, rfl⟩, nofun, nofun, nofun⟩

/-- A dropped byte finds the buffer full, and a stored one a buffer with room that has dropped none (R39). -/
theorem inv_pushRx (s : State) (d : Byte) (h : s.Inv) : (pushRx s d).Inv := by
  obtain ⟨hcfg, htx, ⟨hlen, hovf⟩, -, -, -, hlatch⟩ := h
  rcases pushRx_cases s d with ⟨hroom, he⟩ | ⟨hfull, he⟩ <;> rw [he]
  · refine ⟨hcfg, htx, ⟨?_, fun ho => ?_⟩, verdictInv_clearVerdict _ hlatch⟩
    · simpa using hroom
    · exact absurd (hovf ho) (Nat.ne_of_lt hroom)
  · exact ⟨hcfg, htx, ⟨hlen, fun _ => Nat.le_antisymm hlen hfull⟩, verdictInv_clearVerdict _ hlatch⟩

theorem inv_pushRxBytes (bytes : List Byte) (s : State) (h : s.Inv) : (pushRxBytes s bytes).Inv := by
  induction bytes generalizing s with
  | nil => exact h
  | cons d ds ih => exact ih (pushRx s d) (inv_pushRx s d h)

/-- The verdict and the flags of a DEC_END come from one check, so they agree (42_decoder.md R159, R160). -/
theorem inv_endDecode (kind : FrameKind) (n : Byte) (s : State) (hn : kind = .write → n = 0x00) (h : s.Inv) :
    (endDecode kind n s).Inv := by
  obtain ⟨hcfg, htx, hrx, -⟩ := h
  refine ⟨hcfg, htx, hrx, fun hnone => ?_, checks_crcOk_lenOk _ _ _ _, verdict_ok _ _ _ _ _, fun hk => ?_⟩
  · exact absurd hnone (verdict_ne_none _ _ _ _ _)
  · exact hn (Option.some.inj hk)

/-- Every instruction keeps the invariants. An instruction not named here leaves every field they speak of alone. -/
theorem exec_keeps_inv (i : Instr) (s t : State) (hs : s.Inv) (h : exec i s = .next t) : t.Inv := by
  cases i
  case encRead => cases h; exact inv_encodeFrame 0x07 s hs
  case encWrite => cases h; exact inv_encodeFrame 0x08 s hs
  case cmdRead a c => cases h; exact inv_encodeFrame 0x07 (setOperands a c s) hs
  case cmdWrite a v => cases h; exact inv_encodeFrame 0x08 (setOperands a v s) hs
  case txRewind =>
    cases h
    obtain ⟨hcfg, ⟨-, htxLen⟩, hrx, hverdict⟩ := hs
    exact ⟨hcfg, ⟨Nat.zero_le _, htxLen⟩, hrx, hverdict⟩
  case rdTxDout =>
    simp only [exec] at h
    rcases execRdTxDout_cases s with ⟨hlt, he⟩ | ⟨_, he⟩ <;> rw [he] at h <;> cases h
    · obtain ⟨hcfg, ⟨-, htxLen⟩, hrx, hverdict⟩ := hs
      exact ⟨hcfg, ⟨hlt, htxLen⟩, hrx, hverdict⟩
    · exact hs
  case decStart => cases h; exact inv_startDecode s hs
  case wrRxDin d => cases h; exact inv_pushRx s d hs
  case respAck rest => cases h; exact inv_pushRxBytes (0x02 :: rest) s hs
  case decEndRead => cases h; exact inv_endDecode .read s.param s nofun hs
  case decEndWrite => cases h; exact inv_endDecode .write 0x00 s (fun _ => rfl) hs
  case softReset => cases h; exact inv_resetBlock s hs.1
  all_goals cases h; exact hs

/-- Settles O40: a step idles, resets the block, releases the reset input, or runs an instruction. -/
theorem everyStepKeepsTheStateInvariants : Obligations.EveryStepKeepsTheStateInvariants := by
  intro s t hs h
  rcases step_cases s t h with ⟨-, rfl⟩ | ⟨rest, -, rfl⟩ | ⟨rest, -, rfl⟩ | ⟨rest, -, rfl⟩ | ⟨e, rest, i, -, -, -, hx⟩
  · exact hs
  · exact inv_resetBlock { s with pending := rest } hs.1
  · exact inv_resetBlock { s with pending := rest } hs.1
  · exact hs
  · exact exec_keeps_inv i { s with pending := rest } t hs hx

/-- Settles O41: the reset state with configuration c is what a reset leaves of any block with it. -/
theorem resetMeetsTheStateInvariants : Obligations.ResetMeetsTheStateInvariants := by
  intro c hc
  exact ⟨inv_resetBlock { State.reset with cfg := c } hc, payloadInv_resetBlock { State.reset with cfg := c }⟩

end Sys2Proof.Machine
end

section
/-! Which words decode to an instruction (30_encoding.md R70, R72), read back through the encoder. -/

namespace Sys2Proof.Machine

/-- The addresses, so that a proof on a register access can go through them one by one (00_scope.md R8). -/
theorem regAddr_cases : ∀ a : RegAddr, a = 0x0 ∨ a = 0x1 ∨ a = 0x2 ∨ a = 0x3 ∨ a = 0x4 ∨ a = 0x5 ∨ a = 0x6 ∨ a = 0x7
    ∨ a = 0x8 ∨ a = 0x9 ∨ a = 0xA ∨ a = 0xB ∨ a = 0xC ∨ a = 0xD ∨ a = 0xE ∨ a = 0xF := by
  decide

@[simp] theorem busWe_busWrite (a : RegAddr) (d : Byte) : busWe (busWrite a d) = true := by
  rw [busWrite_eq, (writeWord_fields a d).1]

@[simp] theorem busWe_busRead (a : RegAddr) : busWe (busRead a) = false := by
  rw [busRead_eq, (readWord_fields a 0x00).1]

@[simp] theorem busData_readWord (a : RegAddr) (d : Byte) : busData (wordOf (a.setWidth 13 <<< 8) d) = d := by
  ext i hi
  simp [busData, wordOf, show i < 13 by omega, hi, BitVec.getLsbD_eq_getElem]

/-- Every word is the write or a read of its address (R70). -/
theorem busWord_cases (w : BusWord) :
    w = busWrite (busAddr w) (busData w) ∨ w = wordOf ((busAddr w).setWidth 13 <<< 8) (busData w) := by
  cases hwe : busWe w
  · obtain ⟨h1, h2⟩ := readWord_fields (busAddr w) (busData w)
    exact .inr (busWord_ext _ _ (hwe.trans h1.symm) h2.symm (busData_readWord _ _).symm)
  · obtain ⟨h1, h2, h3⟩ := writeWord_fields (busAddr w) (busData w)
    exact .inl (busWord_ext _ _ (hwe.trans h1.symm) h2.symm h3.symm)

theorem encode_decodeCommand (d : Byte) : encode (decodeCommand d) = .bus (busWrite 0x0 d) := by
  revert d; decide +kernel

theorem encode_decodeWrite (a : RegAddr) (d : Byte) : encode (decodeWrite a d) = .bus (busWrite a d) := by
  rcases regAddr_cases a with rfl | h
  · exact encode_decodeCommand d
  · rcases h with rfl | rfl | rfl | rfl | rfl | rfl | rfl | rfl | rfl | rfl | rfl | rfl | rfl | rfl | rfl <;> rfl

theorem encode_decodeRead : ∀ a : RegAddr, encode (decodeRead a) = .bus (busRead a) := by
  decide

/-- Decoding a word loses nothing of a write, and of a read only its d (R76). -/
theorem encode_of_decodeBus {w : BusWord} {i : Instr} (h : decodeBus w = i) :
    encode i = .bus w ∨ ∃ a d, encode i = .bus (busRead a) ∧ w = wordOf (a.setWidth 13 <<< 8) d := by
  subst h
  rcases busWord_cases w with hw | hw
  · left
    rw [hw, decode_busWrite, encode_decodeWrite]
  · right
    refine ⟨busAddr w, busData w, ?_, hw⟩
    rw [hw, decode_read, encode_decodeRead, (readWord_fields _ _).2]

theorem word_of_decode_write {w : BusWord} {i : Instr} {a : RegAddr} {d : Byte} (h : decodeBus w = i)
    (he : encode i = .bus (busWrite a d)) : w = busWrite a d := by
  rcases encode_of_decodeBus h with hw | ⟨a', d', hr, -⟩
  · exact Encoded.bus.inj (hw.symm.trans he)
  · have hwe := congrArg busWe (Encoded.bus.inj (hr.symm.trans he))
    simp at hwe

theorem word_of_decode_read {w : BusWord} {i : Instr} {a : RegAddr} (h : decodeBus w = i)
    (he : encode i = .bus (busRead a)) : ∃ d, w = wordOf (a.setWidth 13 <<< 8) d := by
  rcases encode_of_decodeBus h with hw | ⟨a', d', hr, rfl⟩
  · refine ⟨0x00, ?_⟩
    rw [← busRead_eq]
    exact Encoded.bus.inj (hw.symm.trans he)
  · have ha := congrArg busAddr (Encoded.bus.inj (hr.symm.trans he))
    rw [busRead_eq, busRead_eq, (readWord_fields _ _).2, (readWord_fields _ _).2] at ha
    exact ⟨d', by rw [ha]⟩

theorem isBus_of_encode {i : Instr} {w : BusWord} (he : encode i = .bus w) : i.isBus = true := by
  cases i
  case cmdRead => cases he
  case cmdWrite => cases he
  case respAck => cases he
  all_goals rfl

theorem isBus_of_decodeBus {w : BusWord} {i : Instr} (h : decodeBus w = i) : i.isBus = true := by
  rcases encode_of_decodeBus h with he | ⟨_, _, he, -⟩ <;> exact isBus_of_encode he

/-- The codes 0x00 to 0x09 are commands of R74, so none of them decodes to CMD_RSVD (R75). -/
theorem reserved_of_decodeCommand : ∀ d code : Byte, decodeCommand d = .cmdRsvd code → 0x0A ≤ code.toNat := by
  have hself : ∀ d : Byte, (decodeCommand d).wf = true := by decide +kernel
  intro d code h
  simpa [h, Instr.wf] using hself d

theorem isBus_of_decodeFrame {bytes : List Byte} {i : Instr} (h : decodeFrame bytes = .ok i) : i.isBus = false := by
  unfold decodeFrame at h
  split at h
  · cases h
  · split at h
    · cases h; rfl
    split at h
    · obtain ⟨_, _, _, _, _, _, -, -, ⟨-, rfl⟩ | ⟨-, rfl⟩⟩ := decodeCommandFrame_ok _ _ h <;> rfl
    · cases h

end Sys2Proof.Machine
end

section
/-! What one transaction word can do to the block, said once for all 8192 words, and who writes which register. -/

namespace Sys2Proof.Machine

/-- What a word of the opcode table can do to the block, one row per effect (30_encoding.md R74, R75, R77). `keep` is the
frame: the words that change no register of the block, and TX_DOUT past the end; a statement on who writes a register needs
no more of it than that. -/
inductive WordEffect (s : State) : BusWord → State → Prop
  | keep (w : BusWord) (r : Option Byte) : WordEffect s w { s with rdata := r }
  | crcInit : WordEffect s 0x1001 { s with crc := 0x0000, rdata := none }
  | crcDin (d : Byte) : WordEffect s (wordOf 0x1400 d) { s with crc := crcStep s.crc d, rdata := none }
  | addrHi (d : Byte) : WordEffect s (wordOf 0x1500 d) { s with addrHi := d, rdata := none }
  | addrLo (d : Byte) : WordEffect s (wordOf 0x1600 d) { s with addrLo := d, rdata := none }
  | param (d : Byte) : WordEffect s (wordOf 0x1700 d) { s with param := d, rdata := none }
  | pidx (d : Byte) : WordEffect s (wordOf 0x1900 d) { s with pidx := d, rdata := none }
  | payload (d b : Byte) : WordEffect s (wordOf 0x0C00 d) { s with pidx := s.pidx + 1, rdata := some b }
  | encRead : WordEffect s 0x1002 { encodeFrame 0x07 s with rdata := none }
  | encWrite : WordEffect s 0x1003 { encodeFrame 0x08 s with rdata := none }
  | txRewind : WordEffect s 0x1004 { s with txIdx := 0, rdata := none }
  | txDout (d b : Byte) : WordEffect s (wordOf 0x0A00 d) { s with txIdx := s.txIdx + 1, rdata := some b }
  | decStart : WordEffect s 0x1005 { startDecode s with rdata := none }
  | rxStored (d : Byte) : s.rx.length < s.cfg.rxCap →
      WordEffect s (wordOf 0x1800 d) { clearVerdict { s with rx := s.rx ++ [d] } with rdata := none }
  | rxDropped (d : Byte) : s.cfg.rxCap ≤ s.rx.length →
      WordEffect s (wordOf 0x1800 d) { clearVerdict { s with rxOvf := true } with rdata := none }
  | decEndRead : WordEffect s 0x1006 { endDecode .read s.param s with rdata := none }
  | decEndWrite : WordEffect s 0x1007 { endDecode .write 0x00 s with rdata := none }
  | cmdRsvd (d : Byte) : 0x0A ≤ d.toNat → WordEffect s (wordOf 0x1000 d) { s with cmdErr := true, rdata := none }
  | clrCmderr : WordEffect s 0x1008 { s with cmdErr := false, rdata := none }
  | softReset : WordEffect s 0x1009 { resetBlock s with rdata := none }

/-- Every transaction does what the table says of its word. -/
theorem wordEffect_of_exec {s t : State} {w : BusWord} (h : exec (decodeBus w) s = .next t) : WordEffect s w t := by
  generalize hi : decodeBus w = i at h
  cases i
  case crcInit => cases h; obtain rfl := word_of_decode_write hi rfl; exact .crcInit
  case wrCrcDin d => cases h; obtain rfl := word_of_decode_write hi rfl; exact .crcDin d
  case wrAddrHi d => cases h; obtain rfl := word_of_decode_write hi rfl; exact .addrHi d
  case wrAddrLo d => cases h; obtain rfl := word_of_decode_write hi rfl; exact .addrLo d
  case wrParam d => cases h; obtain rfl := word_of_decode_write hi rfl; exact .param d
  case wrPidx d => cases h; obtain rfl := word_of_decode_write hi rfl; exact .pidx d
  case rdPayload => cases h; obtain ⟨d, rfl⟩ := word_of_decode_read hi rfl; exact .payload d _
  case encRead => cases h; obtain rfl := word_of_decode_write hi rfl; exact .encRead
  case encWrite => cases h; obtain rfl := word_of_decode_write hi rfl; exact .encWrite
  case txRewind => cases h; obtain rfl := word_of_decode_write hi rfl; exact .txRewind
  case rdTxDout =>
    obtain ⟨d, rfl⟩ := word_of_decode_read hi rfl
    simp only [exec] at h
    rcases execRdTxDout_cases s with ⟨-, he⟩ | ⟨-, he⟩ <;> rw [he] at h <;> cases h
    · exact .txDout d _
    · exact .keep _ _
  case decStart => cases h; obtain rfl := word_of_decode_write hi rfl; exact .decStart
  case wrRxDin d =>
    obtain rfl := word_of_decode_write hi rfl
    simp only [exec, execWrRxDin, noData_eq_next] at h
    subst h
    rcases pushRx_cases s d with ⟨hroom, he⟩ | ⟨hfull, he⟩ <;> rw [he]
    · exact .rxStored d hroom
    · exact .rxDropped d hfull
  case decEndRead => cases h; obtain rfl := word_of_decode_write hi rfl; exact .decEndRead
  case decEndWrite => cases h; obtain rfl := word_of_decode_write hi rfl; exact .decEndWrite
  case cmdRsvd d =>
    cases h
    obtain rfl := word_of_decode_write hi rfl
    exact .cmdRsvd d (reserved_of_decodeCommand d d (by simpa [decodeWrite] using hi))
  case clrCmderr => cases h; obtain rfl := word_of_decode_write hi rfl; exact .clrCmderr
  case softReset => cases h; obtain rfl := word_of_decode_write hi rfl; exact .softReset
  case cmdRead => cases isBus_of_decodeBus hi
  case cmdWrite => cases isBus_of_decodeBus hi
  case respAck => cases isBus_of_decodeBus hi
  all_goals cases h; exact .keep w _

/-- Settles O43: in each clause the rows of `WordEffect` that name the register are the writers the spec names, and
every other row leaves it alone. -/
theorem operandAndIndexRegistersHaveTheirOwnWriters : Obligations.OperandAndIndexRegistersHaveTheirOwnWriters := by
  intro s t w h
  have hw := wordEffect_of_exec h
  refine ⟨fun hne => ?_, fun hne => ?_, fun hne => ?_, fun hne => ?_⟩
  · cases hw with
    | softReset | addrHi d => simp
    | _ => exact absurd rfl hne
  · cases hw with
    | softReset | addrLo d => simp
    | _ => exact absurd rfl hne
  · cases hw with
    | softReset | param d => simp
    | _ => exact absurd rfl hne
  · cases hw with
    | softReset | decStart | decEndRead | decEndWrite | pidx d | payload d b => simp
    | _ => exact absurd rfl hne

/-- Settles O44: as O43, and for the one-bit flags also by the value a row writes. -/
theorem statusFlagsHaveTheirOwnWriters : Obligations.StatusFlagsHaveTheirOwnWriters := by
  intro s t w h
  have hw := wordEffect_of_exec h
  refine ⟨fun hne => ?_, fun h0 h1 => ?_, fun h1 h0 => ?_, fun h0 h1 => ?_, fun h1 h0 => ?_, fun hne => ?_⟩
  · cases hw with
    | decStart | decEndRead | decEndWrite | softReset | rxStored d hroom | rxDropped d hfull => simp
    | _ => simp at hne
  · cases hw with
    | rxDropped d hfull => exact ⟨hfull, d, rfl⟩
    | decStart => cases h1
    | softReset => cases h1
    | _ => cases h0.symm.trans h1
  · cases hw with
    | decStart | softReset => simp
    | rxDropped d hfull => cases h0
    | _ => cases h0.symm.trans h1
  · cases hw with
    | cmdRsvd d hd => exact ⟨d, hd, rfl⟩
    | clrCmderr => cases h1
    | softReset => cases h1
    | _ => cases h0.symm.trans h1
  · cases hw with
    | clrCmderr | softReset => simp
    | cmdRsvd d hd => cases h0
    | _ => cases h0.symm.trans h1
  · cases hw with
    | decStart | decEndRead | decEndWrite | softReset => simp
    | _ => simp at hne

/-- Settles O45: as O43; of the two rows of RX_DIN only the stored byte changes the RX buffer. -/
theorem frameBuffersHaveTheirOwnWriters : Obligations.FrameBuffersHaveTheirOwnWriters := by
  intro s t w h
  have hw := wordEffect_of_exec h
  refine ⟨fun hne => ?_, fun hne => ?_, fun hne => ?_⟩
  · cases hw with
    | encRead | encWrite | softReset => simp
    | _ => simp at hne
  · cases hw with
    | encRead | encWrite | txRewind | softReset | txDout d b => simp
    | _ => exact absurd rfl hne
  · cases hw with
    | decStart | softReset => simp
    | rxStored d hroom => exact .inr (.inr ⟨d, rfl, rfl⟩)
    | _ => exact absurd rfl hne

end Sys2Proof.Machine
end

section
/-! Who writes the CRC accumulator (10_state.md R27), over every event of the host. -/

namespace Sys2Proof.Machine

theorem pushRxBytes_crc (bytes : List Byte) (s : State) : (pushRxBytes s bytes).crc = s.crc := by
  induction bytes generalizing s with
  | nil => rfl
  | cons d ds ih => exact (ih (pushRx s d)).trans (pushRx_crc s d)

/-- A wire frame is an encode or a run of received bytes (logs 5, 6), and neither uses the accumulator (R258). -/
theorem exec_wireFrame_crc {i : Instr} {s t : State} (hi : i.isBus = false) (h : exec i s = .next t) :
    t.crc = s.crc := by
  cases i
  case cmdRead => cases h; rfl
  case cmdWrite => cases h; rfl
  case respAck rest => cases h; exact pushRxBytes_crc (0x02 :: rest) s
  all_goals cases hi

theorem word_of_crc_changed {s t : State} {w : BusWord} (h : exec (decodeBus w) s = .next t) (hne : t.crc ≠ s.crc) :
    w = 0x1001 ∨ (∃ d, w = wordOf 0x1400 d) ∨ w = 0x1009 := by
  cases wordEffect_of_exec h with
  | crcInit | crcDin d | softReset => simp
  | _ => exact absurd rfl hne

/-- Settles O8: an event is a reset, the release of the reset input, a word or a wire frame. -/
theorem crcAccumulatorHasThreeWriters : Obligations.CrcAccumulatorHasThreeWriters := by
  intro s t ev rest hp h hne
  rcases step_cases s t h with ⟨hnil, -⟩ | ⟨r, hr, -⟩ | ⟨r, hr, -⟩ | ⟨r, -, rfl⟩ | ⟨e, r, i, hr, -, hdec, hx⟩
  · cases hnil.symm.trans hp
  · cases hr.symm.trans hp; simp
  · cases hr.symm.trans hp; simp
  · exact absurd rfl hne
  · cases hr.symm.trans hp
    cases e with
    | bus w => cases hdec; rcases word_of_crc_changed hx hne with rfl | ⟨d, rfl⟩ | rfl <;> simp
    | frame bytes => exact absurd (exec_wireFrame_crc (isBus_of_decodeFrame hdec) hx) hne

end Sys2Proof.Machine
end

section
/-! What the received bytes and the checks of a response leave in the state (42_decoder.md R155-R159). -/

namespace Sys2Proof.Machine

theorem noData_of_rdata_none {s : State} (h : s.rdata = none) : noData s = .next s := by
  rw [noData, ← h]

/-- A run of writes to RX_DIN is `pushRxBytes` of their bytes (30_encoding.md R79 rx.bytes). -/
theorem runWords_rxDin (bytes : List Byte) (s : State) (hpin : s.resetPin = false) (hdata : s.rdata = none) :
    runWords (bytes.map (wordOf 0x1800)) s = .next (pushRxBytes s bytes) := by
  induction bytes generalizing s with
  | nil => rfl
  | cons d ds ih =>
    have hx : exec (decodeBus (wordOf 0x1800 d)) s = .next (pushRx s d) :=
      (congrArg (exec · s) (decode_wrRxDin d)).trans (noData_of_rdata_none ((pushRx_rdata s d).trans hdata))
    rw [List.map_cons, runWords_cons _ _ _ _ hpin hx]
    exact ih (pushRx s d) ((pushRx_resetPin s d).trans hpin) ((pushRx_rdata s d).trans hdata)

/-- Settles O17: DEC_START empties the buffer, and `pushRxBytes_eq` says what the bytes leave in an empty buffer. -/
theorem receivedBytesAreStoredInOrder : Obligations.ReceivedBytesAreStoredInOrder := by
  intro s bytes hpin
  refine (runWords_cons _ _ s { startDecode s with rdata := none } hpin rfl).trans ?_
  refine (runWords_rxDin bytes { startDecode s with rdata := none } hpin rfl).trans ?_
  cases bytes with
  | nil => simp [pushRxBytes, startDecode, clearVerdict]
  | cons d ds =>
    rw [pushRxBytes_eq (d :: ds) _ (List.cons_ne_nil d ds) (Nat.zero_le _)]
    simp [startDecode, clearVerdict]

/-- A response long enough to carry a CRC splits at its header and its last two bytes (30_encoding.md R83). -/
theorem exists_response_split (rx : List Byte) (h : 4 ≤ rx.length) :
    ∃ h0 h1 body ch cl, rx = h0 :: h1 :: (body ++ [ch, cl]) := by
  obtain ⟨h0, h1, hhead⟩ := List.length_eq_two.mp (show (rx.take 2).length = 2 by simp; omega)
  obtain ⟨ch, cl, hlast⟩ := List.length_eq_two.mp (show ((rx.drop 2).drop (rx.length - 4)).length = 2 by simp; omega)
  refine ⟨h0, h1, (rx.drop 2).take (rx.length - 4), ch, cl, ?_⟩
  calc rx = rx.take 2 ++ rx.drop 2 := (List.take_append_drop 2 rx).symm
    _ = [h0, h1] ++ ((rx.drop 2).take (rx.length - 4) ++ [ch, cl]) := by rw [hhead, ← hlast, List.take_append_drop]

theorem crcRange_split (h0 h1 ch cl : Byte) (body : List Byte) : crcRange (h0 :: h1 :: (body ++ [ch, cl])) = body := by
  simp [crcRange, subseq]

theorem receivedCrc_split (h0 h1 ch cl : Byte) (body : List Byte) :
    receivedCrc (h0 :: h1 :: (body ++ [ch, cl])) = pair ch cl := by
  simp [receivedCrc, byteAt]

theorem checks_ackOk (kind : FrameKind) (n : Byte) (rx : List Byte) (ovf : Bool) :
    (checks kind n rx ovf).ackOk = true ↔ ∃ tail, rx = 0x02 :: tail := by
  cases rx <;> simp [checks, byteAt]

theorem needLength_ge (kind : FrameKind) (n : Byte) : 6 ≤ needLength kind n := by
  cases kind
  · exact Nat.le_add_right 6 n.toNat
  · exact Nat.le_refl 6

theorem checks_crcOk (kind : FrameKind) (n : Byte) (rx : List Byte) (ovf : Bool) :
    (checks kind n rx ovf).crcOk = true ↔ (checks kind n rx ovf).lenOk = true
      ∧ ∃ h0 h1 body ch cl, rx = h0 :: h1 :: (body ++ [ch, cl]) ∧ crc16 body = pair ch cl := by
  have hcrc : (checks kind n rx ovf).crcOk = true ↔
      (checks kind n rx ovf).lenOk = true ∧ crc16 (crcRange rx) = receivedCrc rx := by
    simp [checks]
  rw [hcrc, and_congr_right_iff]
  intro hlen
  have hneed := needLength_ge kind n
  obtain ⟨-, hle⟩ := (checks_lenOk kind n rx ovf).mp hlen
  obtain ⟨h0, h1, body, ch, cl, rfl⟩ := exists_response_split rx (by omega)
  rw [crcRange_split, receivedCrc_split]
  constructor
  · intro h
    exact ⟨h0, h1, body, ch, cl, rfl, h⟩
  · rintro ⟨h0', h1', body', ch', cl', he, h⟩
    rw [← crcRange_split h0 h1 ch cl body, ← receivedCrc_split h0 h1 ch cl body, he, crcRange_split, receivedCrc_split, h]

/-- Settles O18: a DEC_END latches `checks`, whose three flags the lemmas above characterise; the other operations clear
the flags. -/
theorem checkFlagsSayWhatTheChecksFound : Obligations.CheckFlagsSayWhatTheChecksFound := by
  intro s
  refine ⟨⟨{ endDecode .read s.param s with rdata := none }, rfl, ?_⟩,
    ⟨{ endDecode .write 0x00 s with rdata := none }, rfl, ?_⟩, ?_, rfl, rfl, rfl⟩
  · exact ⟨checks_ackOk .read s.param s.rx s.rxOvf, checks_lenOk _ _ _ _, checks_crcOk _ _ _ _⟩
  · exact ⟨checks_ackOk .write 0x00 s.rx s.rxOvf, checks_lenOk _ _ _ _, checks_crcOk _ _ _ _⟩
  · rintro i d (rfl | rfl | rfl) <;> exact ⟨_, rfl, rfl, rfl, rfl⟩

end Sys2Proof.Machine
end

section
/-! What the reads of STATUS and of the registers after a reset show (10_state.md R29, R46). -/

namespace Sys2Proof.Machine

/-- The fields of STATUS lie in disjoint bits, so the byte is their sum (R29). -/
theorem flags_toNat : ∀ (r : BitVec 2) (ack crc len ovf err ready : Bool),
    (flagBit ready 7 ||| flagBit err 6 ||| flagBit ovf 5 ||| flagBit len 4 ||| flagBit crc 3 ||| flagBit ack 2
        ||| r.setWidth 8).toNat
      = r.toNat + 4 * ack.toNat + 8 * crc.toNat + 16 * len.toNat + 32 * ovf.toNat + 64 * err.toNat
        + 128 * ready.toNat := by
  decide +kernel

/-- Settles O30: `statusByte` is the sum of its fields, and the address 0x1 is one of the ignored writes. -/
theorem statusReadShowsEveryField : Obligations.StatusReadShowsEveryField := by
  refine ⟨fun s d => ⟨decode_rdStatus d, statusByte s, rfl, ?_⟩, fun s d => ⟨decode_write 0x1 d, rfl⟩, by decide⟩
  rw [statusByte, flags_toNat]
  cases s.result <;> rfl

/-- The read data of each address in the reset block (R46; 70_reset_and_hazards.md R241). STATUS and the high bytes are
computed from the reset values; the other addresses show a reset value or 0x00 as it is. -/
theorem exec_read_resetBlock (s : State) (a : RegAddr) :
    ∃ t, exec (decodeRead a) { resetBlock s with rdata := none } = .next t
      ∧ t.rdata = some (if a = 0x7 then 0x01 else 0x00) := by
  have hstatus : statusByte State.reset = 0x00 := by decide
  have hhi : hi 0x0000 = 0x00 := by decide
  have haddr : ∀ a : RegAddr, a = 0x1 ∨ (a = 0x2 ∨ a = 0xE) ∨ (a = 0x0 ∨ a = 0x3 ∨ a = 0x4 ∨ a = 0x5 ∨ a = 0x6
      ∨ a = 0x7 ∨ a = 0x8 ∨ a = 0x9 ∨ a = 0xA ∨ a = 0xB ∨ a = 0xC ∨ a = 0xD ∨ a = 0xF) := by decide
  rcases haddr a with rfl | h | h
  · exact ⟨_, rfl, congrArg some hstatus⟩
  · rcases h with rfl | rfl <;> exact ⟨_, rfl, congrArg some hhi⟩
  · rcases h with rfl | rfl | rfl | rfl | rfl | rfl | rfl | rfl | rfl | rfl | rfl | rfl | rfl <;> exact ⟨_, rfl, rfl⟩

/-- Settles O32: SOFT_RESET leaves `resetBlock`, and the read then shows its values. -/
theorem registersReadTheirResetValues : Obligations.RegistersReadTheirResetValues := by
  intro s a d hpin
  obtain ⟨t, hx, hdata⟩ := exec_read_resetBlock s a
  rw [← decode_read a d] at hx
  refine ⟨t, ?_, hdata⟩
  exact (runWords_cons _ _ s { resetBlock s with rdata := none } hpin rfl).trans (runWords_cons _ [] _ t hpin hx)

end Sys2Proof.Machine
end

section
/-! What the register accesses store and show (20_memory.md R55, R57, R60). -/

namespace Sys2Proof.Machine

/-- The fourteen reads beside TX_DOUT and PAYLOAD (R57). -/
theorem exec_read_answers (s : State) (a : RegAddr) (htx : a ≠ 0xA) (hpay : a ≠ 0xC) :
    ∃ b : Byte, exec (decodeRead a) s = .next { s with rdata := some b } := by
  have haddr : ∀ a : RegAddr, a ≠ 0xA → a ≠ 0xC → a = 0x0 ∨ a = 0x1 ∨ a = 0x2 ∨ a = 0x3 ∨ a = 0x4 ∨ a = 0x5 ∨ a = 0x6
      ∨ a = 0x7 ∨ a = 0x8 ∨ a = 0x9 ∨ a = 0xB ∨ a = 0xD ∨ a = 0xE ∨ a = 0xF := by decide
  rcases haddr a htx hpay with
    rfl | rfl | rfl | rfl | rfl | rfl | rfl | rfl | rfl | rfl | rfl | rfl | rfl | rfl <;> exact ⟨_, rfl⟩

/-- A write to ADDR_HI, ADDR_LO, PARAM or PIDX leaves a block in which the same write changes nothing and a read of the
register shows the byte (R57, R60). -/
theorem exec_storingWrite (s : State) (a : RegAddr) (d : Byte) (ha : a = 0x5 ∨ a = 0x6 ∨ a = 0x7 ∨ a = 0x9) :
    ∃ t, exec (decodeWrite a d) s = .next t ∧ exec (decodeWrite a d) t = .next t
      ∧ exec (decodeRead a) t = .next { t with rdata := some d } := by
  rcases ha with rfl | rfl | rfl | rfl <;> exact ⟨_, rfl, rfl, rfl⟩

/-- Settles O15: the second word of the run reads what `exec_storingWrite` says the first one stored. -/
theorem writtenOperandReadsBack : Obligations.WrittenOperandReadsBack := by
  intro s a d e hpin ha
  obtain ⟨t, hwrite, -, hread⟩ := exec_storingWrite s a d ha
  have hpin' : t.resetPin = false := (exec_frame _ s t hwrite).2.2.trans hpin
  rw [← decode_write] at hwrite
  rw [← decode_read a e] at hread
  exact ⟨{ t with rdata := some d }, (runWords_cons _ _ s t hpin hwrite).trans (runWords_cons _ [] t _ hpin' hread), rfl⟩

/-- Settles O47: a read word runs its `decodeRead`, and the second of two storing writes runs from where the first one
ended, which it keeps. -/
theorem onlyTwoReadsHaveSideEffects : Obligations.OnlyTwoReadsHaveSideEffects := by
  constructor
  · intro s a d htx hpay
    rw [decode_read]
    exact exec_read_answers s a htx hpay
  · intro s a d hpin ha
    obtain ⟨t, hfirst, hagain, -⟩ := exec_storingWrite s a d ha
    have hpin' : t.resetPin = false := (exec_frame _ s t hfirst).2.2.trans hpin
    rw [← decode_write] at hfirst hagain
    calc runWords [wordOf (0x1000 ||| (a.setWidth 13 <<< 8)) d, wordOf (0x1000 ||| (a.setWidth 13 <<< 8)) d] s
        = runWords [wordOf (0x1000 ||| (a.setWidth 13 <<< 8)) d] t := runWords_cons _ _ s t hpin hfirst
      _ = runWords [] t := runWords_cons _ _ t t hpin' hagain
      _ = runWords [wordOf (0x1000 ||| (a.setWidth 13 <<< 8)) d] s := (runWords_cons _ _ s t hpin hfirst).symm

end Sys2Proof.Machine
end

section
/-! The words of the assembly lines and of the pseudo-instructions (30_encoding.md R70, R78, R79). -/

namespace Sys2Proof.Machine

/-- The fields of a write word do not overlap, so it is their sum (R70). -/
theorem busWrite_eq_ofNat (a : RegAddr) (d : Byte) :
    busWrite a d = BitVec.ofNat 13 (0x1000 + a.toNat * 0x100 + d.toNat) := by
  have ha : a.toNat * 0x100 < 2 ^ 12 := by omega
  have hd : d.toNat < 2 ^ 8 := d.isLt
  have hamod : a.toNat * 0x100 % 0x2000 = a.toNat * 0x100 := Nat.mod_eq_of_lt (by omega)
  have hdmod : d.toNat % 0x2000 = d.toNat := Nat.mod_eq_of_lt (by omega)
  apply BitVec.eq_of_toNat_eq
  calc (busWrite a d).toNat
      = 0x1000 ||| a.toNat * 0x100 ||| d.toNat := by simp [busWrite, Nat.shiftLeft_eq, hamod, hdmod]
    _ = 2 ^ 12 * 1 + a.toNat * 0x100 ||| d.toNat := by rw [Nat.two_pow_add_eq_or_of_lt ha]
    _ = 2 ^ 8 * (16 + a.toNat) ||| d.toNat := congrArg (· ||| d.toNat) (by omega)
    _ = 0x1000 + a.toNat * 0x100 + d.toNat := by rw [← Nat.two_pow_add_eq_or_of_lt hd]; omega
    _ = (BitVec.ofNat 13 (0x1000 + a.toNat * 0x100 + d.toNat)).toNat := (Nat.mod_eq_of_lt (by omega)).symm

theorem busRead_eq_ofNat (a : RegAddr) : busRead a = BitVec.ofNat 13 (a.toNat * 0x100) := by
  apply BitVec.eq_of_toNat_eq
  simp [busRead, Nat.shiftLeft_eq]

@[simp] theorem imm8_toNat (d : Byte) : imm8 d.toNat = some d := by
  simp [imm8, d.isLt]

theorem imm8_of_gt {n : Nat} (hn : 255 < n) : imm8 n = none := if_neg (by omega)

theorem addr_num_of_gt {k : Nat} (hk : 15 < k) : (AsmReg.num k).addr = none := if_neg (by omega)

theorem addr_num_of_le {k : Nat} (hk : k ≤ 15) : (AsmReg.num k).addr = some (BitVec.ofNat 4 k) := if_pos (by omega)

theorem assembleWrite_byte {r : AsmReg} {a : RegAddr} (hr : r.addr = some a) (d : Byte) :
    assembleWrite r d.toNat = some (busWrite a d) := by
  simp [assembleWrite, hr]

/-- An imm8 above 255 is rejected at every register, one without an address included (R78). -/
theorem assembleWrite_of_gt (r : AsmReg) {n : Nat} (hn : 255 < n) : assembleWrite r n = none := by
  simp [assembleWrite, imm8_of_gt hn]

theorem assembleWrite_of_no_addr {r : AsmReg} (hr : r.addr = none) (n : Nat) : assembleWrite r n = none := by
  simp [assembleWrite, hr]

theorem assembleWrites_bytes {r : AsmReg} {a : RegAddr} (hr : r.addr = some a) (bytes : List Byte) :
    assembleWrites r (bytes.map BitVec.toNat) = some (bytes.map (busWrite a)) := by
  induction bytes with
  | nil => rfl
  | cons d ds ih => simp [assembleWrites, assembleWrite_byte hr, ih]

theorem assembleWrites_of_mem_gt (r : AsmReg) {ns : List Nat} {n : Nat} (hmem : n ∈ ns) (hn : 255 < n) :
    assembleWrites r ns = none := by
  induction ns with
  | nil => cases hmem
  | cons m ms ih =>
    rcases List.mem_cons.mp hmem with rfl | htail
    · simp [assembleWrites, assembleWrite_of_gt r hn]
    · simp [assembleWrites, ih htail]

theorem assemble_wr_of_le {r : AsmReg} {a : RegAddr} (hr : r.addr = some a) {n : Nat} (hn : n ≤ 255) :
    (AsmLine.wr r n).assemble = some [BitVec.ofNat 13 (0x1000 + a.toNat * 0x100 + n)] := by
  obtain ⟨d, rfl⟩ : ∃ d : Byte, d.toNat = n := ⟨BitVec.ofNat 8 n, Nat.mod_eq_of_lt (by omega)⟩
  simp [AsmLine.assemble, assembleWrite_byte hr, busWrite_eq_ofNat]

theorem assemble_seta_half (a : Half) : (AsmLine.seta a.toNat).assemble = some (setaWords a) := by
  simp [AsmLine.assemble, a.isLt]

theorem assemble_encRead_half (a : Half) (c : Byte) :
    (AsmLine.encRead a.toNat c.toNat).assemble = some (encodeWords AsmCommand.encRead.code a c) := by
  simp [AsmLine.assemble, a.isLt]

theorem assemble_encWrite_half (a : Half) (v : Byte) :
    (AsmLine.encWrite a.toNat v.toNat).assemble = some (encodeWords AsmCommand.encWrite.code a v) := by
  simp [AsmLine.assemble, a.isLt]

/-- The bound on A is the model's choice (log 11), that on C and V is R78's. -/
theorem assemble_encode_of_gt {n p : Nat} (h : 0xFFFF < n ∨ 0xFF < p) :
    (AsmLine.encRead n p).assemble = none ∧ (AsmLine.encWrite n p).assemble = none := by
  rcases h with hn | hp
  · have hn' : ¬ n < 65536 := by omega
    cases himm : imm8 p <;> simp [AsmLine.assemble, himm, hn']
  · simp [AsmLine.assemble, imm8_of_gt hp]

/-- Settles O51: each clause is the lemma above on its line; the words of `busWrite` at a fixed address are those the
spec writes, by computation. -/
theorem assemblyLinesAreTheirWords : Obligations.AssemblyLinesAreTheirWords := by
  refine ⟨rfl, fun k => ⟨fun hk => ⟨_, Nat.mod_eq_of_lt (by omega), addr_num_of_le hk⟩, addr_num_of_gt⟩,
    fun r a n hr hn => assemble_wr_of_le hr hn, ?rejectImm, ?rejectReg, ?rd, by decide, ?command, ?bytes, ?rejectBytes,
    assemble_seta_half, assemble_encRead_half, assemble_encWrite_half, ?rejectHalf⟩
  case rejectImm =>
    intro r n hn
    simp [AsmLine.assemble, assembleWrite_of_gt r hn]
  case rejectReg =>
    intro k n hk
    have hnone := addr_num_of_gt hk
    simp [AsmLine.assemble, hnone, assembleWrite_of_no_addr hnone n]
  case rd =>
    intro r a hr
    simp [AsmLine.assemble, hr, busRead_eq_ofNat]
  case command =>
    intro c
    have hcmd : assembleWrite .cmd c.code.toNat = some (commandWord c) := assembleWrite_byte rfl c.code
    exact ⟨rfl, by simp [AsmLine.assemble, hcmd]⟩
  case bytes =>
    exact fun bytes => ⟨assembleWrites_bytes (r := .crcDin) rfl bytes, assembleWrites_bytes (r := .rxDin) rfl bytes⟩
  case rejectBytes => exact fun ns n hmem hn => ⟨assembleWrites_of_mem_gt _ hmem hn, assembleWrites_of_mem_gt _ hmem hn⟩
  case rejectHalf => exact fun n p => ⟨fun hn => if_neg (by omega), assemble_encode_of_gt⟩

end Sys2Proof.Machine
end

section
/-! Decoding undoes encoding and encoding undoes decoding (30_encoding.md R70-R83; logs 5, 6, 8). -/

namespace Sys2Proof.Machine

/-- The frames the encoder builds pass every check of the decoder but the one on OP (R80, R82). -/
theorem decodeFrame_commandFrameBytes (op : Byte) (a : Half) (p : Byte) :
    decodeFrame (commandFrameBytes op a p)
      = if op == 0x07 then .ok (.cmdRead a p) else if op == 0x08 then .ok (.cmdWrite a p) else .error .unknownOp := by
  simp [decodeFrame, decodeCommandFrame, commandFrameBytes]

/-- The bytes of an accepted command frame are those the encoder builds, its CRC included (R80, R81). -/
theorem commandFrameBytes_of_crc {op ah al p ch cl : Byte} (hcrc : pair ch cl = crc16 [op, 0x01, ah, al, p]) :
    commandFrameBytes op (pair ah al) p = [0x7E, 0x00, op, 0x01, ah, al, p, ch, cl] := by
  simp only [commandFrameBytes, hi_pair, lo_pair, ← hcrc, List.cons_append, List.nil_append]

theorem encode_of_decodeFrame {bytes : List Byte} {i : Instr} (h : decodeFrame bytes = .ok i) :
    encode i = .frame bytes := by
  unfold decodeFrame at h
  split at h
  · cases h
  split at h
  · rename_i b rest hb
    cases h
    rw [eq_of_beq hb]
    rfl
  split at h
  · rename_i b rest _ hb
    rw [eq_of_beq hb]
    obtain ⟨op, ah, al, p, ch, cl, rfl, hcrc, ⟨rfl, rfl⟩ | ⟨rfl, rfl⟩⟩ := decodeCommandFrame_ok rest i h <;>
      exact congrArg Encoded.frame (commandFrameBytes_of_crc hcrc)
  · cases h

theorem decodeFrame_of_encode {bytes : List Byte} {i : Instr} (h : encode i = .frame bytes) :
    decodeFrame bytes = .ok i := by
  cases i
  case respAck rest => cases h; rfl
  case cmdRead a c => cases h; exact decodeFrame_commandFrameBytes 0x07 a c
  case cmdWrite a v => cases h; exact decodeFrame_commandFrameBytes 0x08 a v
  all_goals cases h

/-- A list of bytes decodes to exactly the wire frame that encodes to it (R80, R81, R83). -/
theorem decodeFrame_eq_ok_iff (bytes : List Byte) (i : Instr) : decodeFrame bytes = .ok i ↔ encode i = .frame bytes :=
  ⟨encode_of_decodeFrame, decodeFrame_of_encode⟩

theorem decode_frame_iff_of_encode {i : Instr} {frame : List Byte} (he : encode i = .frame frame) (bytes : List Byte) :
    decode (.frame bytes) = .ok i ↔ bytes = frame := by
  rw [decode, decodeFrame_eq_ok_iff, he, Encoded.frame.injEq, eq_comm]

theorem decode_encode_of_frame {i : Instr} {frame : List Byte} (he : encode i = .frame frame) :
    decode (encode i) = .ok i := by
  rw [he, decode_frame_iff_of_encode he]

theorem decode_encode_of_write {i : Instr} {a : RegAddr} {d : Byte} (he : encode i = .bus (busWrite a d))
    (hd : decodeWrite a d = i) : decode (encode i) = .ok i := by
  rw [he, ← hd, ← decode_busWrite, decode]

theorem decode_encode_of_read {i : Instr} {a : RegAddr} (he : encode i = .bus (busRead a))
    (hd : decodeRead a = i) : decode (encode i) = .ok i := by
  rw [he, ← hd, ← decode_busRead, decode]

theorem decodeCommand_reserved (d : Byte) (hd : 0x0A ≤ d.toNat) : decodeCommand d = .cmdRsvd d := by
  unfold decodeCommand
  split
  case h_11 => rfl
  all_goals omega

theorem decodeWrite_ignored (a : RegAddr) (d : Byte) (ha : ignoredWriteAddr a = true) :
    decodeWrite a d = .wrIgnored a d := by
  have haddr : ∀ a : RegAddr, ignoredWriteAddr a = true → a = 0x1 ∨ a = 0x2 ∨ a = 0x3 ∨ a = 0xA ∨ a = 0xB ∨ a = 0xC
      ∨ a = 0xD ∨ a = 0xE ∨ a = 0xF := by decide
  rcases haddr a ha with rfl | rfl | rfl | rfl | rfl | rfl | rfl | rfl | rfl <;> rfl

theorem decodeRead_zero : ∀ a : RegAddr, zeroReadAddr a = true → decodeRead a = .rdZero a := by
  decide

/-- Settles O33: a wire frame by `decodeFrame_of_encode`; a word by what its address and code decode to, where
well-formedness is the range of a reserved code, of an ignored write and of a zero read (R75; 43_control.md R195,
R196). -/
theorem decodeInvertsEncode : Obligations.DecodeInvertsEncode := by
  intro i hwf
  cases i with
  | cmdRead | cmdWrite | respAck => exact decode_encode_of_frame rfl
  | cmdRsvd code => exact decode_encode_of_write rfl (decodeCommand_reserved code (of_decide_eq_true hwf))
  | wrIgnored a d => exact decode_encode_of_write rfl (decodeWrite_ignored a d hwf)
  | rdZero a => exact decode_encode_of_read rfl (decodeRead_zero a hwf)
  | rdStatus | rdCrcHi | rdCrcLo | rdAddrHi | rdAddrLo | rdParam | rdPidx | rdTxDout | rdTxLeft | rdPayload | rdRxlenLo
  | rdRxlenHi => exact decode_encode_of_read rfl rfl
  | _ => exact decode_encode_of_write rfl rfl

/-- Settles O36: each of the three frames is the encoding of its instruction. -/
theorem commandFramesDecodeOnlyWhenTheirCrcIsRight : Obligations.CommandFramesDecodeOnlyWhenTheirCrcIsRight := by
  intro bytes a p tail
  exact ⟨decode_frame_iff_of_encode rfl bytes, decode_frame_iff_of_encode rfl bytes, decode_frame_iff_of_encode rfl bytes⟩

theorem decodeCommand_wf : ∀ d : Byte, (decodeCommand d).wf = true := by
  decide +kernel

theorem decodeWrite_wf (a : RegAddr) (d : Byte) : (decodeWrite a d).wf = true := by
  rcases regAddr_cases a with rfl | h
  · exact decodeCommand_wf d
  · rcases h with rfl | rfl | rfl | rfl | rfl | rfl | rfl | rfl | rfl | rfl | rfl | rfl | rfl | rfl | rfl <;> rfl

theorem decodeRead_wf : ∀ a : RegAddr, (decodeRead a).wf = true := by
  decide

theorem decodeBus_wf (w : BusWord) : (decodeBus w).wf = true := by
  unfold decodeBus
  split
  · exact decodeWrite_wf _ _
  · exact decodeRead_wf _

theorem wf_of_encode_frame {i : Instr} {bytes : List Byte} (h : encode i = .frame bytes) : i.wf = true := by
  cases i with
  | cmdRead | cmdWrite | respAck => rfl
  | _ => cases h

/-- The mask of the bits of a drops the d of a read word (R70, R76). -/
theorem readWord_and_addrMask (a : RegAddr) (d : Byte) : wordOf (a.setWidth 13 <<< 8) d &&& 0x0F00 = busRead a := by
  have ha : ∀ a : RegAddr, (a.setWidth 13 <<< 8 : BusWord) &&& 0x0F00 = busRead a := by decide
  have hd : ∀ d : Byte, (d.setWidth 13 : BusWord) &&& 0x0F00 = 0 := by decide +kernel
  rw [wordOf, BitVec.and_or_distrib_right, ha, hd]
  exact BitVec.or_zero

theorem encode_decodeBus (w : BusWord) :
    encode (decodeBus w) = .bus (if w.getLsbD 12 then w else w &&& 0x0F00) := by
  change _ = Encoded.bus (if busWe w then w else w &&& 0x0F00)
  rcases busWord_cases w with hw | hw <;> rw [hw]
  · simp [encode_decodeWrite]
  · rw [decode_read, encode_decodeRead, (readWord_fields _ _).1, readWord_and_addrMask]
    rfl

/-- Settles O34: a word by `encode_decodeBus`, a wire frame by `encode_of_decodeFrame`. -/
theorem encodeInvertsDecode : Obligations.EncodeInvertsDecode := by
  refine ⟨fun w => ⟨decodeBus w, rfl⟩, fun e i h => ?_⟩
  cases e with
  | bus w => cases h; exact ⟨decodeBus_wf w, encode_decodeBus w⟩
  | frame bytes =>
    have he : encode i = .frame bytes := encode_of_decodeFrame h
    exact ⟨wf_of_encode_frame he, he⟩

end Sys2Proof.Machine
end

section
/-! The opcode table's transaction rows against the decoder (30_encoding.md R72, R74, R75, R77). A row is held against
the two parts of a word apart: its access, the bits we and a, and its data byte. -/

namespace Sys2Proof.Machine

/-- The bits we and a of a word, which say what it accesses (R70). -/
def busAccess (w : BusWord) : BitVec 5 := w.extractLsb' 8 5

/-- What a row asks of the bits we and a. -/
def selectsAccess (r : BusRow) (x : BitVec 5) : Bool := (x &&& busAccess r.mask) == busAccess r.pattern

/-- What a row asks of the data byte. -/
def selectsData (r : BusRow) (d : Byte) : Bool := (d &&& busData r.mask) == busData r.pattern

/-- The decoder over the same two parts. -/
def decodeAccess (x : BitVec 5) (d : Byte) : Instr :=
  if x.getLsbD 4 then decodeWrite (x.extractLsb' 0 4) d else decodeRead (x.extractLsb' 0 4)

theorem busWe_eq_busAccess (w : BusWord) : busWe w = (busAccess w).getLsbD 4 := by
  simp [busWe, busAccess]

theorem busAddr_eq_busAccess (w : BusWord) : busAddr w = (busAccess w).extractLsb' 0 4 := by
  ext i hi
  simp [busAddr, busAccess, show i < 5 by omega]

theorem decodeBus_eq_decodeAccess (w : BusWord) : decodeBus w = decodeAccess (busAccess w) (busData w) := by
  rw [decodeBus, decodeAccess, busWe_eq_busAccess, busAddr_eq_busAccess]

theorem busWord_eq_iff (v w : BusWord) : v = w ↔ busAccess v = busAccess w ∧ busData v = busData w := by
  constructor
  · rintro rfl
    exact ⟨rfl, rfl⟩
  · rintro ⟨haccess, hdata⟩
    refine busWord_ext v w ?_ ?_ hdata
    · rw [busWe_eq_busAccess, haccess, ← busWe_eq_busAccess]
    · rw [busAddr_eq_busAccess, haccess, ← busAddr_eq_busAccess]

theorem selects_eq_and (r : BusRow) (w : BusWord) :
    r.selects w = (selectsAccess r (busAccess w) && selectsData r (busData w)) := by
  rw [Bool.eq_iff_iff]
  simp only [BusRow.selects, selectsAccess, selectsData, Bool.and_eq_true, beq_iff_eq, busWord_eq_iff]
  simp only [busAccess, busData, BitVec.extractLsb'_and]

theorem filter_selects (w : BusWord) :
    busRows.filter (fun r => r.selects w)
      = (busRows.filter (selectsAccess · (busAccess w))).filter (selectsData · (busData w)) := by
  rw [List.filter_filter]
  exact congrArg (busRows.filter ·) (funext fun r => (selects_eq_and r w).trans (Bool.and_comm _ _))

/-- Of the writes to CMD the data byte selects the row (R74, R75). -/
theorem rows_of_command_access :
    busRows.filter (selectsAccess · 0x10) = commandRows ∧ ∀ d : Byte,
      (commandRows.filter (selectsData · d)).map (fun r => r.mnemonic) = [(decodeCommand d).mnemonic] := by
  decide +kernel

/-- Of every other access one row is selected, whatever the data byte (R77). -/
theorem rows_of_other_access : ∀ x : BitVec 5, x ≠ 0x10 →
    (busRows.filter (selectsAccess · x)).map (fun r => r.mnemonic) = [(decodeAccess x 0x00).mnemonic]
      ∧ ∀ r ∈ busRows.filter (selectsAccess · x), busData r.mask = 0x00 ∧ busData r.pattern = 0x00 := by
  decide +kernel

theorem mnemonic_decodeWrite_of_ne_cmd (a : RegAddr) (d : Byte) (ha : a ≠ 0x0) :
    (decodeWrite a d).mnemonic = (decodeWrite a 0x00).mnemonic := by
  rcases regAddr_cases a with rfl | h
  · exact absurd rfl ha
  · rcases h with rfl | rfl | rfl | rfl | rfl | rfl | rfl | rfl | rfl | rfl | rfl | rfl | rfl | rfl | rfl <;> rfl

theorem mnemonic_decodeAccess_of_ne_cmd (x : BitVec 5) (d : Byte) (hx : x ≠ 0x10) :
    (decodeAccess x d).mnemonic = (decodeAccess x 0x00).mnemonic := by
  have haddr : ∀ x : BitVec 5, x ≠ 0x10 → x.getLsbD 4 = true → x.extractLsb' 0 4 ≠ (0x0 : RegAddr) := by decide
  unfold decodeAccess
  split
  case isTrue hwe => exact mnemonic_decodeWrite_of_ne_cmd _ d (haddr x hx hwe)
  case isFalse => rfl

theorem rows_of_access (x : BitVec 5) (d : Byte) :
    ((busRows.filter (selectsAccess · x)).filter (selectsData · d)).map (fun r => r.mnemonic)
      = [(decodeAccess x d).mnemonic] := by
  by_cases hx : x = 0x10
  · subst hx
    rw [rows_of_command_access.1]
    exact rows_of_command_access.2 d
  · obtain ⟨hone, hany⟩ := rows_of_other_access x hx
    have hall : ∀ r ∈ busRows.filter (selectsAccess · x), selectsData r d = true := by
      intro r hr
      obtain ⟨hmask, hpattern⟩ := hany r hr
      simp [selectsData, hmask, hpattern]
    rw [List.filter_eq_self.mpr hall, hone, mnemonic_decodeAccess_of_ne_cmd x d hx]

/-- Settles O35: the row is found by the access, and among the commands by the data byte; every instruction answers. -/
theorem everyWordSelectsExactlyOneRow : Obligations.EveryWordSelectsExactlyOneRow := by
  intro w
  refine ⟨?_, fun s => exec_answers (decodeBus w) s⟩
  rw [filter_selects, decodeBus_eq_decodeAccess]
  exact rows_of_access (busAccess w) (busData w)

/-- Settles O37, by running the decoder on the ten words. -/
theorem sampleWordsDecodeAsTheTableSays : Obligations.SampleWordsDecodeAsTheTableSays := by
  unfold Obligations.SampleWordsDecodeAsTheTableSays
  decide

end Sys2Proof.Machine
end

section
/-! What one step answers for a transaction word (30_encoding.md R72, R73, R76). -/

namespace Sys2Proof.Machine

/-- The thirteen reads, which return a byte to the host (R73, R77). -/
def isRead : Instr → Bool
  | .rdZero _ | .rdStatus | .rdCrcHi | .rdCrcLo | .rdAddrHi | .rdAddrLo | .rdParam | .rdPidx | .rdTxDout | .rdTxLeft
  | .rdPayload | .rdRxlenLo | .rdRxlenHi => true
  | _ => false

theorem exec_rdata_isSome {i : Instr} {s t : State} (h : exec i s = .next t) : t.rdata.isSome = isRead i := by
  cases i
  case rdTxDout =>
    simp only [exec] at h
    rcases execRdTxDout_cases s with ⟨-, he⟩ | ⟨-, he⟩ <;> rw [he] at h <;> cases h <;> rfl
  all_goals cases h; rfl

theorem isRead_decodeCommand (d : Byte) : isRead (decodeCommand d) = false := by
  unfold decodeCommand
  split <;> rfl

theorem isRead_decodeWrite (a : RegAddr) (d : Byte) : isRead (decodeWrite a d) = false := by
  unfold decodeWrite
  split
  case h_1 => exact isRead_decodeCommand d
  all_goals rfl

theorem isRead_decodeRead (a : RegAddr) : isRead (decodeRead a) = true := by
  unfold decodeRead
  split <;> rfl

theorem isRead_decodeBus (w : BusWord) : isRead (decodeBus w) = !busWe w := by
  cases hwe : busWe w <;> simp [decodeBus, hwe, isRead_decodeWrite, isRead_decodeRead]

/-- Settles O39: the step runs the decoded word, whose instruction keeps the parameters and the reset input and returns a
byte exactly when it is a read. -/
theorem everyTransactionCompletesInOneStep : Obligations.EveryTransactionCompletesInOneStep := by
  intro s w rest hp hpin
  obtain ⟨t, hx⟩ := exec_answers (decodeBus w) { s with pending := rest }
  obtain ⟨hcfg, hpending, hpin'⟩ := exec_frame _ _ _ hx
  refine ⟨t, (step_of_issue s (.bus w) _ rest hp hpin rfl).trans hx, hpending, hcfg, hpin'.trans hpin, ?_⟩
  rw [exec_rdata_isSome hx, isRead_decodeBus, Bool.not_eq_true']
  rfl

/-- A step depends on what is issued only through what it decodes to. -/
theorem step_issue_congr {e e' : Encoded} (h : decode e = decode e') (s : State) (rest : List HostEvent) :
    step { s with pending := .issue e :: rest } = step { s with pending := .issue e' :: rest } := by
  simp only [step, h]

/-- Settles O46: both words decode to the read of a. -/
theorem readDataFieldIsIgnored : Obligations.ReadDataFieldIsIgnored := by
  intro s a d rest
  have hd : decodeBus (wordOf (a.setWidth 13 <<< 8) d) = decodeBus (a.setWidth 13 <<< 8) :=
    (decode_read a d).trans (decode_busRead a).symm
  exact step_issue_congr (e := .bus _) (e' := .bus _) (congrArg Except.ok hd) s rest

end Sys2Proof.Machine
end

section
/-! The encodes and the wire frames: the frame they hold, and the transactions a wire frame stands for
(30_encoding.md R79, R80, R83; logs 5, 6). -/

namespace Sys2Proof.Machine

theorem commandFrame_toList (op ah al p : Byte) :
    (commandFrame op ah al p).toList = [0x7E, 0x00, op, 0x01, ah, al, p,
      hi (crc16 [op, 0x01, ah, al, p]), lo (crc16 [op, 0x01, ah, al, p])] := rfl

/-- Settles O10: the frame an encode holds is `commandFrame` of the operand registers. -/
theorem encodeBuildsTheCommandFrame : Obligations.EncodeBuildsTheCommandFrame := by
  intro s
  exact ⟨rfl, ⟨_, commandFrame_toList 0x07 _ _ _, rfl⟩, rfl, ⟨_, commandFrame_toList 0x08 _ _ _, rfl⟩⟩

/-- Settles O49: the held frame is the encoding of the command, and `pushRxBytes_eq` says what a response leaves. -/
theorem wireFrameEffects : Obligations.WireFrameEffects := by
  intro s
  refine ⟨fun a c => ⟨_, congrArg Encoded.frame (commandFrame_toList 0x07 (hi a) (lo a) c), rfl⟩,
    fun a v => ⟨_, congrArg Encoded.frame (commandFrame_toList 0x08 (hi a) (lo a) v), rfl⟩, fun tail hcap => ?_⟩
  have hlen : s.rx.length + (0x02 :: tail : List Byte).length = s.rx.length + 1 + tail.length := by
    rw [List.length_cons]; omega
  rw [exec, execRespAck, noData, pushRxBytes_eq (0x02 :: tail) s (List.cons_ne_nil _ _) hcap, hlen]

theorem runWords_cons_of_decode {w : BusWord} {i : Instr} {s t : State} (hd : decodeBus w = i) (ws : List BusWord)
    (hpin : s.resetPin = false) (hx : exec i s = .next t) : runWords (w :: ws) s = runWords ws t :=
  runWords_cons w ws s t hpin (by rw [hd, hx])

theorem runWords_singleton (w : BusWord) (s : State) (hpin : s.resetPin = false) :
    runWords [w] s = exec (decodeBus w) s := by
  obtain ⟨t, hx⟩ := exec_answers (decodeBus w) s
  rw [runWords_cons w [] s t hpin hx, hx, runWords_nil]

/-- The three writes of enc.read and enc.write store the operands, and the last word runs on them (R79). -/
theorem runWords_operands (a : Half) (p : Byte) (w : BusWord) (s : State) (hpin : s.resetPin = false) :
    runWords [wordOf 0x1500 (hi a), wordOf 0x1600 (lo a), wordOf 0x1700 p, w] s
      = exec (decodeBus w) { setOperands a p s with rdata := none } := by
  calc runWords [wordOf 0x1500 (hi a), wordOf 0x1600 (lo a), wordOf 0x1700 p, w] s
      = runWords [wordOf 0x1600 (lo a), wordOf 0x1700 p, w] { s with addrHi := hi a, rdata := none } :=
        runWords_cons_of_decode (decode_wrAddrHi _) _ hpin rfl
    _ = runWords [wordOf 0x1700 p, w] { s with addrHi := hi a, addrLo := lo a, rdata := none } :=
        runWords_cons_of_decode (decode_wrAddrLo _) _ hpin rfl
    _ = runWords [w] { setOperands a p s with rdata := none } :=
        runWords_cons_of_decode (decode_wrParam p) _ hpin rfl
    _ = exec (decodeBus w) { setOperands a p s with rdata := none } := runWords_singleton w _ hpin

theorem pushRx_withRdata (s : State) (d : Byte) (r : Option Byte) :
    pushRx { s with rdata := r } d = { pushRx s d with rdata := r } := by
  rcases pushRx_cases s d with ⟨h, he⟩ | ⟨h, he⟩ <;> rw [he, pushRx]
  · rw [if_pos h]; rfl
  · rw [if_neg (Nat.not_lt.mpr h)]; rfl

theorem pushRxBytes_withRdata (bytes : List Byte) (s : State) (r : Option Byte) :
    pushRxBytes { s with rdata := r } bytes = { pushRxBytes s bytes with rdata := r } := by
  induction bytes generalizing s with
  | nil => rfl
  | cons d ds ih => rw [pushRxBytes, pushRx_withRdata, ih, pushRxBytes]

/-- At least one write to RX_DIN leaves the bytes and no data byte, whatever the host read before (R79 rx.bytes). -/
theorem runWords_rxDin_cons (d : Byte) (ds : List Byte) (s : State) (hpin : s.resetPin = false) :
    runWords ((d :: ds).map (wordOf 0x1800)) s = noData (pushRxBytes s (d :: ds)) := by
  have hpin' : (pushRx s d).resetPin = false := (pushRx_resetPin s d).trans hpin
  calc runWords ((d :: ds).map (wordOf 0x1800)) s
      = runWords (ds.map (wordOf 0x1800)) { pushRx s d with rdata := none } :=
        runWords_cons_of_decode (decode_wrRxDin d) _ hpin rfl
    _ = .next (pushRxBytes { pushRx s d with rdata := none } ds) := runWords_rxDin ds _ hpin' rfl
    _ = noData (pushRxBytes s (d :: ds)) := by rw [pushRxBytes_withRdata]; rfl

/-- Settles O50: the runs of the operand writes with their encode, and of the RX_DIN writes. -/
theorem wireFramesAreTheirExpansions : Obligations.WireFramesAreTheirExpansions := by
  intro s hpin
  refine ⟨fun a c => ?_, fun a v => ?_, fun tail => ?_⟩
  · exact (runWords_operands a c 0x1002 s hpin).symm
  · exact (runWords_operands a v 0x1003 s hpin).symm
  · exact (runWords_rxDin_cons 0x02 tail s hpin).symm

end Sys2Proof.Machine
end

section
/-! The CRC step is one linear map on its accumulator and byte that forgets nothing: what a checksum is and what it
detects (40_crc.md R101-R103). -/

namespace Sys2Proof.Machine

/-! The halves of a 16-bit value as numbers. -/

theorem hi_toNat (x : Half) : (hi x).toNat = x.toNat / 256 := by
  have := x.isLt
  rw [hi, BitVec.extractLsb'_toNat, Nat.shiftRight_eq_div_pow]
  omega

theorem lo_toNat (x : Half) : (lo x).toNat = x.toNat % 256 := by
  simp [lo]

theorem setWidth_shiftLeft_toNat (b : Byte) : (b.setWidth 16 <<< 8).toNat = 256 * b.toNat := by
  have := b.isLt
  rw [BitVec.toNat_shiftLeft, BitVec.toNat_setWidth, Nat.shiftLeft_eq]
  omega

theorem pair_eq_xor (h l : Byte) : pair h l = h.setWidth 16 <<< 8 ^^^ l.setWidth 16 := by
  rw [pair]
  ext i hi
  by_cases h8 : i < 8
  · simp [h8]
  · have hl : l.getLsbD i = false := BitVec.getLsbD_of_ge l i (Nat.not_lt.mp h8)
    simp [h8, hl]

/-! The polynomial step on numbers, and on words it only shifts. -/

/-- `shift1` in natural-number arithmetic: doubling modulo 65536, with 0x1021 wherever bit 15 was 1 (R102). -/
def shift1Nat (x : Nat) : Nat := (if x / 32768 % 2 = 1 then (2 * x) ^^^ 0x1021 else 2 * x) % 65536

theorem getLsbD_fifteen (x : Half) : x.getLsbD 15 = decide (x.toNat / 32768 % 2 = 1) := by
  rw [BitVec.getLsbD, Nat.testBit_eq_decide_div_mod_eq]

theorem shift1_toNat (x : Half) : (shift1 x).toNat = shift1Nat x.toNat := by
  have hshift : (x <<< 1).toNat = 2 * x.toNat % 2 ^ 16 := by
    rw [BitVec.toNat_shiftLeft, Nat.shiftLeft_eq, pow_one, Nat.mul_comm]
  rw [shift1, BitVec.toNat_xor, hshift, getLsbD_fifteen, shift1Nat]
  by_cases h : x.toNat / 32768 % 2 = 1
  · rw [if_pos h, if_pos (decide_eq_true h)]
    exact (Nat.xor_mod_two_pow (n := 16)).symm
  · rw [if_neg h, if_neg (by simpa using h)]
    exact Nat.xor_zero _

theorem shiftN_toNat (n : Nat) (x : Half) : (shiftN n x).toNat = shift1Nat^[n] x.toNat := by
  induction n generalizing x with
  | zero => rfl
  | succ n ih => rw [shiftN, ih, shift1_toNat, Function.iterate_succ_apply]

/-- As long as no 1 leaves at the top, the division only shifts (R102). -/
theorem shiftN_of_lt (n : Nat) (x : Half) (h : x.toNat * 2 ^ n < 65536) : shiftN n x = x <<< n := by
  induction n generalizing x with
  | zero => rw [shiftN, BitVec.shiftLeft_zero]
  | succ n ih =>
    have hpow : 1 ≤ 2 ^ n := Nat.one_le_two_pow
    have hlt : x.toNat * 2 * 2 ^ n < 65536 := by rwa [Nat.mul_assoc, ← Nat.pow_succ']
    have hx : x.toNat * 2 < 65536 := lt_of_le_of_lt (Nat.le_mul_of_pos_right _ hpow) hlt
    have hbit : x.getLsbD 15 = false := by
      rw [getLsbD_fifteen]
      exact decide_eq_false (by omega)
    have hshift : shift1 x = x <<< 1 := by rw [shift1, hbit]; exact BitVec.xor_zero
    have htoNat : (x <<< 1).toNat = x.toNat * 2 := by
      rw [BitVec.toNat_shiftLeft, Nat.shiftLeft_eq, pow_one, Nat.mod_eq_of_lt hx]
    rw [shiftN, hshift, ih _ (by rwa [htoNat]), ← BitVec.shiftLeft_add, Nat.add_comm]

theorem shiftN_eight_byte (b : Byte) : shiftN 8 (b.setWidth 16) = b.setWidth 16 <<< 8 := by
  have := b.isLt
  refine shiftN_of_lt 8 _ ?_
  rw [BitVec.toNat_setWidth]
  omega

/-! The polynomial step loses nothing: bit 0 of 0x1021 records the bit that leaves. -/

theorem shift1_eq_zero {x : Half} (h : shift1 x = 0) : x = 0 := by
  have htop : x.getLsbD 15 = false := by
    have h0 := congrArg (BitVec.getLsbD · 0) h
    cases hx : x.getLsbD 15 <;> simp [shift1, hx] at h0 ⊢
  have hshift : x <<< 1 = 0 := by
    rw [shift1, htop] at h
    exact BitVec.xor_zero.symm.trans h
  ext i hi
  rcases Nat.lt_or_ge i 15 with hlt | hge
  · have hbit := congrArg (BitVec.getLsbD · (i + 1)) hshift
    simpa [show i + 1 < 16 by omega] using hbit
  · obtain rfl : i = 15 := by omega
    simpa using htop

theorem shiftN_eq_zero {n : Nat} {x : Half} (h : shiftN n x = 0) : x = 0 := by
  induction n generalizing x with
  | zero => exact h
  | succ n ih => exact shift1_eq_zero (ih h)

theorem shiftN_injective (n : Nat) : Function.Injective (shiftN n) := by
  intro x y h
  have hxor : shiftN n (x ^^^ y) = 0 := by rw [shiftN_xor, h, BitVec.xor_self]; rfl
  exact BitVec.xor_eq_zero_iff.mp (shiftN_eq_zero hxor)

/-! The CRC step as bit-serial division, and what follows for a sequence. -/

/-- R103 property 1: the low byte of the accumulator only shifts, and the high byte meets the data byte in the table. -/
theorem crcStep_eq_shiftN (c : Half) (b : Byte) : crcStep c b = shiftN 8 (c ^^^ (b.setWidth 16 <<< 8)) := by
  have hc : c = (hi c).setWidth 16 <<< 8 ^^^ (lo c).setWidth 16 := by rw [← pair_eq_xor, pair_hi_lo]
  have hlow : c <<< 8 = (lo c).setWidth 16 <<< 8 := by
    apply BitVec.eq_of_toNat_eq
    rw [BitVec.toNat_shiftLeft, setWidth_shiftLeft_toNat, lo_toNat, Nat.shiftLeft_eq]
    omega
  calc crcStep c b
      = shiftN 8 ((lo c).setWidth 16) ^^^ shiftN 8 ((hi c ^^^ b).setWidth 16 <<< 8) := by
        rw [crcStep, crcTable, hlow, shiftN_eight_byte]
    _ = shiftN 8 (((hi c).setWidth 16 <<< 8 ^^^ (lo c).setWidth 16) ^^^ b.setWidth 16 <<< 8) := by
        rw [← shiftN_xor, BitVec.setWidth_xor, BitVec.shiftLeft_xor_distrib]
        ac_rfl
    _ = shiftN 8 (c ^^^ (b.setWidth 16 <<< 8)) := by rw [← hc]

theorem crcStep_left_injective (b : Byte) : Function.Injective (crcStep · b) := by
  intro c c' h
  simp only [crcStep_eq_shiftN] at h
  exact (BitVec.xor_left_inj _).mp (shiftN_injective 8 h)

theorem crcStep_right_injective (c : Half) : Function.Injective (crcStep c) := by
  intro b b' h
  rw [crcStep_eq_shiftN, crcStep_eq_shiftN] at h
  have hshift := congrArg BitVec.toNat ((BitVec.xor_right_inj c).mp (shiftN_injective 8 h))
  rw [setWidth_shiftLeft_toNat, setWidth_shiftLeft_toNat] at hshift
  exact BitVec.eq_of_toNat_eq (by omega)

/-- R103 property 2: h cancels the high byte of the accumulator, and l the byte that moved up in its place. -/
theorem crcStep_pair (h l : Byte) : crcStep (crcStep (pair h l) h) l = 0 := by
  have hfirst : crcStep (pair h l) h = l.setWidth 16 <<< 8 := by
    rw [crcStep_eq_shiftN, pair_eq_xor, BitVec.xor_comm, ← BitVec.xor_assoc, BitVec.xor_self, BitVec.zero_xor,
      shiftN_eight_byte]
  rw [hfirst, crcStep_eq_shiftN, BitVec.xor_self]
  rfl

theorem foldl_crcStep_injective (S : List Byte) : Function.Injective (S.foldl crcStep) := by
  induction S with
  | nil => exact Function.injective_id
  | cons b S ih => exact ih.comp (crcStep_left_injective b)

theorem crc16_set_ne (S : List Byte) (i : Nat) (hi : i < S.length) {b : Byte} (hb : b ≠ S[i]) :
    crc16 (S.set i b) ≠ crc16 S := by
  intro h
  have hS : crc16 S = crc16 (S.take i ++ S[i] :: S.drop (i + 1)) := by
    rw [← List.drop_eq_getElem_cons hi, List.take_append_drop]
  rw [hS, List.set_eq_take_append_cons_drop, if_pos hi, crc16_append, crc16_append] at h
  exact hb (crcStep_right_injective _ (foldl_crcStep_injective _ h))

/-- Settles O1: the number of each operation of `crcStep`; reduction modulo 65536 passes through the exclusive-or. -/
theorem crcFollowsTheTableUpdate : Obligations.CrcFollowsTheTableUpdate := by
  refine ⟨fun c b => ?_, rfl, fun S d => crc16_append S [d]⟩
  have hindex : (hi c ^^^ b).toNat = (c.toNat >>> 8) ^^^ b.toNat := by
    rw [BitVec.toNat_xor, hi_toNat, Nat.shiftRight_eq_div_pow]
  have hofNat : BitVec.ofNat 8 ((c.toNat >>> 8) ^^^ b.toNat) = hi c ^^^ b := by
    rw [← hindex, BitVec.ofNat_toNat, BitVec.setWidth_eq]
  refine ⟨hindex ▸ (hi c ^^^ b).isLt, ?_⟩
  rw [hofNat, crcStep, BitVec.toNat_xor, BitVec.toNat_shiftLeft]
  exact (Nat.xor_mod_two_pow (n := 16)).trans (by rw [Nat.mod_eq_of_lt (crcTable _).isLt]) |>.symm

/-- Settles O2: the table entry is `shiftN`, whose number is the iterated doubling. -/
theorem crcTableIsShiftedEightTimes : Obligations.CrcTableIsShiftedEightTimes := by
  intro i
  rw [crcTable, shiftN_toNat, setWidth_shiftLeft_toNat]
  rfl

/-- Settles O3: `crcStep_eq_shiftN`, at each byte of the sequence. -/
theorem crcStepIsBitSerialDivision : Obligations.CrcStepIsBitSerialDivision := by
  refine ⟨crcStep_eq_shiftN, fun S => ?_⟩
  simp only [crc16, ← crcStep_eq_shiftN]

/-- Settles O4: the checksum's own two bytes bring it to 0, and the steps by them bring no other value there. -/
theorem crcVerifiesExactlyItsOwnChecksum : Obligations.CrcVerifiesExactlyItsOwnChecksum := by
  intro S h l
  calc crc16 (S ++ [h, l]) = 0
      ↔ crcStep (crcStep (crc16 S) h) l = crcStep (crcStep (pair h l) h) l := by
        rw [crcStep_pair, crc16_append]; rfl
    _ ↔ crc16 S = pair h l := ((crcStep_left_injective l).comp (crcStep_left_injective h)).eq_iff
    _ ↔ pair h l = crc16 S := eq_comm

/-- Settles O5: the flipped byte is another byte, and no later byte of the sequence undoes the change. -/
theorem crcDetectsEverySingleBitFlip : Obligations.CrcDetectsEverySingleBitFlip := by
  intro S i k hi hk
  refine crc16_set_ne S i hi fun h => ?_
  have hmask : ((1 <<< k : Nat) : Byte) = 0 := by
    simpa using congrArg (S[i] ^^^ ·) h
  rw [BitVec.natCast_eq_ofNat] at hmask
  have hnum := congrArg BitVec.toNat hmask
  have hpow : 2 ^ k < 2 ^ 8 := Nat.pow_lt_pow_right (by decide) hk
  rw [BitVec.toNat_ofNat, Nat.one_shiftLeft, Nat.mod_eq_of_lt hpow] at hnum
  exact absurd hnum (Nat.two_pow_pos k).ne'

end Sys2Proof.Machine
end

section
/-! What the accumulator's transactions do, one by one and in a run (40_crc.md R104-R107). -/

namespace Sys2Proof.Machine

/-- Settles O6: each word decodes to its instruction, and the halves are quotient and remainder by 256. -/
theorem crcFamilyEffects : Obligations.CrcFamilyEffects := by
  intro s d
  have hhi : hi s.crc = BitVec.ofNat 8 (s.crc.toNat / 256) := by
    rw [← hi_toNat, BitVec.ofNat_toNat, BitVec.setWidth_eq]
  have hlo : lo s.crc = BitVec.ofNat 8 (s.crc.toNat % 256) := by
    rw [← lo_toNat, BitVec.ofNat_toNat, BitVec.setWidth_eq]
  rw [← hhi, ← hlo]
  exact ⟨rfl, rfl, decode_wrCrcDin d, rfl, decode_rdCrcHi d, rfl, decode_rdCrcLo d, rfl⟩

/-- The bytes written to CRC_DIN are folded into the accumulator in order (R105). -/
theorem runWords_crcDin (S : List Byte) (s : State) (hpin : s.resetPin = false) (hdata : s.rdata = none) :
    runWords (S.map (wordOf 0x1400)) s = .next { s with crc := S.foldl crcStep s.crc } := by
  induction S generalizing s with
  | nil => rfl
  | cons d ds ih =>
    have hx : exec (.wrCrcDin d) s = .next { s with crc := crcStep s.crc d } := noData_of_rdata_none hdata
    exact (runWords_cons_of_decode (decode_wrCrcDin d) _ hpin hx).trans (ih _ hpin hdata)

/-- Settles O7: CRC_INIT leaves the preset of `crc16`, and `runWords_crcDin` folds the bytes into it. -/
theorem crcDinAfterInitComputesCrc16 : Obligations.CrcDinAfterInitComputesCrc16 := by
  intro s S hpin
  calc runWords ((0x1001 : BusWord) :: S.map (wordOf 0x1400)) s
      = runWords (S.map (wordOf 0x1400)) { s with crc := 0x0000, rdata := none } :=
        runWords_cons_of_decode rfl _ hpin rfl
    _ = .next { s with crc := crc16 S, rdata := none } := runWords_crcDin S _ hpin rfl

end Sys2Proof.Machine
end

section
/-! The operand registers and the read-out of the held frame (41_encoder.md R125-R134). -/

namespace Sys2Proof.Machine

/-- Settles O14: each word decodes to its access, and the three registers reset to the values of R46. -/
theorem operandRegisterEffects : Obligations.OperandRegisterEffects := by
  refine ⟨fun s d => ?_, rfl, rfl, rfl⟩
  exact ⟨decode_wrAddrHi d, rfl, decode_wrAddrLo d, rfl, decode_wrParam d, rfl,
    decode_rdAddrHi d, rfl, decode_rdAddrLo d, rfl, decode_rdParam d, rfl⟩

theorem exec_rdTxDout_of_lt {s : State} (h : s.txIdx < s.txLen) :
    exec .rdTxDout s = .next { s with txIdx := s.txIdx + 1, rdata := some (txByte s) } := if_pos h

/-- Past the end the read is no error and moves nothing (R125). -/
theorem exec_rdTxDout_of_le {s : State} (h : s.txLen ≤ s.txIdx) :
    exec .rdTxDout s = .next { s with rdata := some 0x00 } := if_neg (Nat.not_lt.mpr h)

theorem tx_getElem?_txIdx {s : State} (h : s.txIdx < 9) : s.tx.toList[s.txIdx]? = some (txByte s) := by
  simp [txByte, byteAt, h]

/-- The count of bytes left fits a byte, since the buffer holds at most nine (R37, R38). -/
theorem txLeft_add_txIdx {s : State} (h : s.TxInv) : (txLeft s).toNat + s.txIdx = s.txLen := by
  obtain ⟨hidx, hlen⟩ := h
  rw [txLeft, BitVec.toNat_ofNat, Nat.mod_eq_of_lt (by omega), Nat.sub_add_cancel hidx]

/-- Settles O11: the two cases of RD_TX_DOUT, and TX_LEFT by `txLeft_add_txIdx`. -/
theorem txReadOutEffects : Obligations.TxReadOutEffects := by
  intro s d hinv
  have hcap : s.txLen ≤ 9 := by obtain ⟨-, hlen⟩ := hinv; omega
  exact ⟨decode_rdTxDout d, fun hlt => ⟨txByte s, tx_getElem?_txIdx (hlt.trans_le hcap), exec_rdTxDout_of_lt hlt⟩,
    fun hend => exec_rdTxDout_of_le hend.ge, decode_rdTxLeft d, ⟨txLeft s, txLeft_add_txIdx hinv, rfl⟩, rfl, rfl⟩

theorem byteAt_of_le {bytes : List Byte} {n : Nat} (h : bytes.length ≤ n) : byteAt bytes n = 0x00 := by
  rw [byteAt, List.getElem?_eq_none h, Option.getD_none]

/-- Read number n of a held frame, counted from 0: one equation for the nine bytes and for every later read, at which
tx_idx stands still at 9 and `byteAt` is past the frame (R125). -/
theorem runWords_txDout_next (s : State) (n : Nat) (hpin : s.resetPin = false) (hlen : s.txLen = 9)
    (hidx : s.txIdx = min n 9) :
    runWords [0x0A00] s = .next { s with txIdx := min (n + 1) 9, rdata := some (byteAt s.tx.toList n) } := by
  refine (runWords_singleton 0x0A00 s hpin).trans ?_
  rcases Nat.lt_or_ge n 9 with hlt | hge
  · obtain rfl : n = s.txIdx := by omega
    rw [Nat.min_eq_left hlt]
    exact exec_rdTxDout_of_lt (by omega)
  · have hstill : min (n + 1) 9 = s.txIdx := by omega
    have hpast : byteAt s.tx.toList n = 0x00 := byteAt_of_le (by simpa using hge)
    rw [hstill, hpast]
    exact exec_rdTxDout_of_le (by omega)

/-- Reads of TX_DOUT from the start of a held frame, one after the other (R125). -/
theorem runWords_txDout (s : State) (k : Nat) (hpin : s.resetPin = false) (hlen : s.txLen = 9) :
    runWords (List.replicate (k + 1) 0x0A00) { s with txIdx := 0 }
      = .next { s with txIdx := min (k + 1) 9, rdata := some (byteAt s.tx.toList k) } := by
  induction k with
  | zero => exact runWords_txDout_next { s with txIdx := 0 } 0 hpin hlen rfl
  | succ k ih =>
    rw [List.replicate_succ', runWords_append _ _ { s with txIdx := 0 } _ hpin ih]
    exact runWords_txDout_next _ (k + 1) hpin hlen rfl

/-- The frame the encoder holds is the frame of R80 that the wire carries. -/
theorem commandFrame_toList_eq_bytes (op ah al p : Byte) :
    (commandFrame op ah al p).toList = commandFrameBytes op (pair ah al) p := by
  rw [commandFrame_toList, commandFrameBytes, hi_pair, lo_pair]
  rfl

/-- An encode holds its frame at tx_idx = 0, and the reads return it (R122, R123, R125). -/
theorem runWords_encode_txDout {w : BusWord} {op : Byte} (s : State) (k : Nat) (hpin : s.resetPin = false)
    (hx : exec (decodeBus w) s = .next { encodeFrame op s with rdata := none }) :
    ∃ t, runWords (w :: List.replicate (k + 1) 0x0A00) s = .next t
      ∧ t.rdata = some ((commandFrameBytes op (pair s.addrHi s.addrLo) s.param)[k]?.getD 0x00)
      ∧ t.txIdx = min (k + 1) 9 := by
  rw [runWords_cons w _ s _ hpin hx, ← commandFrame_toList_eq_bytes]
  exact ⟨_, runWords_txDout { encodeFrame op s with rdata := none } k hpin rfl, rfl, rfl⟩

/-- Settles O12: `runWords_encode_txDout` for both encodes. -/
theorem encodedFrameReadsOutInWireOrder : Obligations.EncodedFrameReadsOutInWireOrder := by
  intro s k hpin
  exact ⟨runWords_encode_txDout s k hpin rfl, runWords_encode_txDout s k hpin rfl⟩

/-- Three operand writes and TX_REWIND leave the held frame as it was, at tx_idx = 0 (R127, R131). -/
theorem runWords_operands_rewind (s : State) (d1 d2 d3 : Byte) (hpin : s.resetPin = false) :
    runWords [wordOf 0x1500 d1, wordOf 0x1600 d2, wordOf 0x1700 d3, 0x1004] s
      = .next { setOperands (pair d1 d2) d3 s with txIdx := 0, rdata := none } := by
  have hrun := runWords_operands (pair d1 d2) d3 0x1004 s hpin
  rwa [hi_pair, lo_pair] at hrun

/-- Settles O13: the reads that follow the rewind start in a state whose tx is the one held before. -/
theorem rewindReplaysTheSentFrame : Obligations.RewindReplaysTheSentFrame := by
  intro s d1 d2 d3 b k hpin hlen hb
  have hk : k < 9 := by simpa using (List.getElem?_eq_some_iff.mp hb).1
  have hbyte : byteAt s.tx.toList k = b := by rw [byteAt, hb, Option.getD_some]
  refine ⟨_, (runWords_append _ _ s _ hpin (runWords_operands_rewind s d1 d2 d3 hpin)).trans
    (runWords_txDout { setOperands (pair d1 d2) d3 s with rdata := none } k hpin hlen), ?_, ?_, rfl⟩
  · exact congrArg some hbyte
  · exact Nat.min_eq_left hk

end Sys2Proof.Machine
end

section
/-! The payload of an accepted read lies in the stored response (corner case of 42_decoder.md R166), kept by each
operation, each instruction and each step. -/

namespace Sys2Proof.Machine

/-- A DEC_END that accepts a read has seen its length check pass (R159, R160). -/
theorem payloadInv_endDecode (kind : FrameKind) (n : Byte) (s : State) : (endDecode kind n s).PayloadInv := by
  intro hok hkind
  obtain ⟨hcrc, -⟩ := verdict_ok _ _ _ _ _ hok
  obtain ⟨-, hlen⟩ := (checks_lenOk _ _ _ _).mp (checks_crcOk_lenOk _ _ _ _ hcrc)
  obtain rfl : kind = .read := Option.some.inj hkind
  exact hlen

theorem payloadInv_pushRxBytes (bytes : List Byte) (s : State) (h : s.PayloadInv) :
    (pushRxBytes s bytes).PayloadInv := by
  induction bytes generalizing s with
  | nil => exact h
  | cons d ds ih => exact ih (pushRx s d) nofun

/-- Every instruction keeps the payload in range.
An instruction not named here leaves every field it depends on alone. -/
theorem exec_keeps_payloadInv (i : Instr) (s t : State) (hs : s.PayloadInv) (h : exec i s = .next t) :
    t.PayloadInv := by
  cases i
  case rdTxDout =>
    simp only [exec] at h
    rcases execRdTxDout_cases s with ⟨-, he⟩ | ⟨-, he⟩ <;> rw [he] at h <;> cases h <;> exact hs
  case decStart => cases h; nofun
  case softReset => cases h; exact payloadInv_resetBlock s
  case wrRxDin d => cases h; nofun
  case respAck rest => cases h; exact payloadInv_pushRxBytes (0x02 :: rest) s hs
  case decEndRead => cases h; exact payloadInv_endDecode .read s.param s
  case decEndWrite => cases h; exact payloadInv_endDecode .write 0x00 s
  all_goals cases h; exact hs

/-- Settles O42: a step idles, resets the block, releases the reset input, or runs an instruction. -/
theorem everyStepKeepsThePayloadInRange : Obligations.EveryStepKeepsThePayloadInRange := by
  intro s t hs h
  rcases step_cases s t h with ⟨-, rfl⟩ | ⟨rest, -, rfl⟩ | ⟨rest, -, rfl⟩ | ⟨rest, -, rfl⟩ | ⟨e, rest, i, -, -, -, hx⟩
  · exact hs
  · exact payloadInv_resetBlock { s with pending := rest }
  · exact payloadInv_resetBlock { s with pending := rest }
  · exact hs
  · exact exec_keeps_payloadInv i { s with pending := rest } t hs hx

end Sys2Proof.Machine
end

section
/-! The verdict as a function of the two checks, and what the checks look at in a response (42_decoder.md R151-R160). -/

namespace Sys2Proof.Machine

/-- The verdict on a non-empty response, from the outcomes of its CRC check and its ack check; the priority decides only
where both failed (R160). -/
def verdictOf : Bool → Bool → ErrPriority → Verdict
  | true, true, _ => .ok
  | true, false, _ => .noResponse
  | false, true, _ => .checksumError
  | false, false, .crcFirst => .checksumError
  | false, false, .ackFirst => .noResponse

theorem verdictOf_crcFirst (ackOk : Bool) : verdictOf false ackOk .crcFirst = .checksumError := by
  cases ackOk <;> rfl

theorem verdict_nil (prio : ErrPriority) (kind : FrameKind) (n : Byte) (ovf : Bool) :
    verdict prio kind n [] ovf = .noResponse := rfl

theorem verdict_of_ne_nil (prio : ErrPriority) {kind : FrameKind} {n : Byte} {rx : List Byte} {ovf crcOk ackOk : Bool}
    (hne : rx ≠ []) (hcrc : (checks kind n rx ovf).crcOk = crcOk) (hack : (checks kind n rx ovf).ackOk = ackOk) :
    verdict prio kind n rx ovf = verdictOf crcOk ackOk prio := by
  have hlen : rx.length ≠ 0 := fun h0 => hne (List.length_eq_zero_iff.mp h0)
  simp only [verdict, if_neg hlen, hcrc, hack]
  cases prio <;> cases crcOk <;> cases ackOk <;> rfl

theorem checks_ackOk_head (kind : FrameKind) (n : Byte) (rx : List Byte) (ovf : Bool) :
    (checks kind n rx ovf).ackOk = true ↔ rx.head? = some 0x02 := by
  rw [checks_ackOk, List.head?_eq_some_iff]

theorem ne_nil_of_ackOk {kind : FrameKind} {n : Byte} {rx : List Byte} {ovf : Bool}
    (h : (checks kind n rx ovf).ackOk = true) : rx ≠ [] := by
  obtain ⟨tail, rfl⟩ := (checks_ackOk kind n rx ovf).mp h
  exact List.cons_ne_nil _ _

theorem verdict_ok_iff (prio : ErrPriority) (kind : FrameKind) (n : Byte) (rx : List Byte) (ovf : Bool) :
    verdict prio kind n rx ovf = .ok ↔ (checks kind n rx ovf).ackOk = true ∧ (checks kind n rx ovf).crcOk = true := by
  constructor
  · exact fun h => (verdict_ok prio kind n rx ovf h).symm
  · rintro ⟨hack, hcrc⟩
    exact verdict_of_ne_nil prio (ne_nil_of_ackOk hack) hcrc hack

/-- Once a byte was dropped the length check fails, and the CRC check with it (R158, R159). -/
theorem checks_of_overflow (kind : FrameKind) (n : Byte) (rx : List Byte) :
    (checks kind n rx true).lenOk = false ∧ (checks kind n rx true).crcOk = false := ⟨rfl, rfl⟩

/-- Of a header the CRC check sees only that it stands before the covered bytes (R159; 30_encoding.md R83). -/
theorem checks_crcOk_cons_cons (kind : FrameKind) (n b0 b1 : Byte) (tail : List Byte) (ovf : Bool) :
    (checks kind n (b0 :: b1 :: tail) ovf).crcOk = true ↔ (checks kind n (b0 :: b1 :: tail) ovf).lenOk = true
      ∧ ∃ body ch cl, tail = body ++ [ch, cl] ∧ crc16 body = pair ch cl := by
  rw [checks_crcOk]
  simp

/-- The CRC check of a response split at its covered bytes and its last two. -/
theorem checks_crcOk_split (kind : FrameKind) (n h0 h1 ch cl : Byte) (body : List Byte) (ovf : Bool) :
    (checks kind n (h0 :: h1 :: (body ++ [ch, cl])) ovf).crcOk = true ↔
      (checks kind n (h0 :: h1 :: (body ++ [ch, cl])) ovf).lenOk = true ∧ crc16 body = pair ch cl := by
  simp [checks, crcRange_split, receivedCrc_split]

/-- Both DEC_ENDs are `endDecode`, of a kind and an expected count that PARAM fixes (R161, R162). -/
theorem exec_decEnd {i : Instr} (h : i = .decEndRead ∨ i = .decEndWrite) (s : State) :
    ∃ kind n, ∀ u : State, u.param = s.param → exec i u = .next { endDecode kind n u with rdata := none } := by
  rcases h with rfl | rfl
  · exact ⟨.read, s.param, fun u hparam => by rw [← hparam]; rfl⟩
  · exact ⟨.write, 0x00, fun u _ => rfl⟩

/-- Settles O19: the empty response by `verdict_nil`, every other by the row of `verdictOf` that its two flags choose. -/
theorem verdictFollowsTheChecks : Obligations.VerdictFollowsTheChecks := by
  intro s i hi
  obtain ⟨kind, n, hx⟩ := exec_decEnd hi s
  refine ⟨_, hx s rfl, fun hnil => ?_, verdict_of_ne_nil _, verdict_of_ne_nil _, verdict_of_ne_nil _,
    fun hne hcrc hack hprio => ?_, fun hne hcrc hack hprio => ?_, verdict_ok_iff _ _ _ _ _⟩
  · simp only [endDecode_result, hnil, verdict_nil]
  · exact (verdict_of_ne_nil _ hne hcrc hack).trans (congrArg (verdictOf false false) hprio)
  · exact (verdict_of_ne_nil _ hne hcrc hack).trans (congrArg (verdictOf false false) hprio)

/-- Settles O27: the ack check looks at byte 0, the length check at the length, and the CRC check at what follows byte 1. -/
theorem secondHeaderByteIsNeverChecked : Obligations.SecondHeaderByteIsNeverChecked := by
  intro prio kind n b0 b1 b1' tail ovf
  have hcrc : (checks kind n (b0 :: b1 :: tail) ovf).crcOk = (checks kind n (b0 :: b1' :: tail) ovf).crcOk :=
    Bool.eq_iff_iff.mpr <|
      (checks_crcOk_cons_cons kind n b0 b1 tail ovf).trans (checks_crcOk_cons_cons kind n b0 b1' tail ovf).symm
  have hchecks : checks kind n (b0 :: b1 :: tail) ovf = checks kind n (b0 :: b1' :: tail) ovf :=
    congrArg (Checks.mk _ _) hcrc
  refine ⟨hchecks, ?_⟩
  rw [verdict_of_ne_nil prio (List.cons_ne_nil b0 _) rfl rfl, hchecks]
  exact (verdict_of_ne_nil prio (List.cons_ne_nil b0 _) rfl rfl).symm

end Sys2Proof.Machine
end

section
/-! What the decoder's transactions do, one by one (42_decoder.md R155-R170). -/

namespace Sys2Proof.Machine

theorem exec_wrRxDin_of_lt {s : State} (d : Byte) (h : s.rx.length < s.cfg.rxCap) :
    exec (.wrRxDin d) s = .next { clearVerdict { s with rx := s.rx ++ [d] } with rdata := none } := by
  simp only [exec, execWrRxDin, noData, pushRx, if_pos h]

theorem exec_wrRxDin_of_le {s : State} (d : Byte) (h : s.cfg.rxCap ≤ s.rx.length) :
    exec (.wrRxDin d) s = .next { clearVerdict { s with rxOvf := true } with rdata := none } := by
  simp only [exec, execWrRxDin, noData, pushRx, if_neg (Nat.not_lt.mpr h)]

/-- Settles O16: the two words decode to their instructions, and the two lemmas above are the cases of RX_DIN. -/
theorem decStartAndRxDinEffects : Obligations.DecStartAndRxDinEffects := by
  intro s d
  exact ⟨rfl, rfl, decode_wrRxDin d, exec_wrRxDin_of_lt d, exec_wrRxDin_of_le d⟩

/-- Settles O20: each word decodes to its instruction, whose meaning is `endDecode` of its kind and count. -/
theorem decEndEffects : Obligations.DecEndEffects := by
  intro s
  exact ⟨rfl, rfl, rfl, rfl⟩

/-- Settles O24: the two bytes of RXLEN are quotient and remainder of the length by 256. -/
theorem payloadIndexAndLengthEffects : Obligations.PayloadIndexAndLengthEffects := by
  intro s d
  have hlo : lo (rxLen s) = BitVec.ofNat 8 (s.rx.length % 256) := by
    apply BitVec.eq_of_toNat_eq
    rw [lo_toNat, rxLen, BitVec.toNat_ofNat, BitVec.toNat_ofNat]
    omega
  have hhi : hi (rxLen s) = BitVec.ofNat 8 (s.rx.length / 256 % 256) := by
    apply BitVec.eq_of_toNat_eq
    rw [hi_toNat, rxLen, BitVec.toNat_ofNat, BitVec.toNat_ofNat]
    omega
  refine ⟨decode_wrPidx d, rfl, decode_rdPidx d, rfl, ?_, ?_, ?_, ?_, fun hlen => ?_⟩
  · exact decode_rdRxlenLo d
  · rw [← hlo]; rfl
  · exact decode_rdRxlenHi d
  · rw [← hhi]; rfl
  · rw [BitVec.toNat_ofNat, BitVec.toNat_ofNat]
    omega

theorem payloadValid_iff (s : State) :
    payloadValid s = true ↔ s.result = .ok ∧ s.decKind = some .read ∧ s.pidx.toNat < s.decN.toNat := by
  simp [payloadValid, and_assoc]

/-- The index has eight bits, so it advances modulo 256 (R166). -/
theorem pidx_add_one (b : Byte) : b + 1 = BitVec.ofNat 8 ((b.toNat + 1) % 256) := by
  apply BitVec.eq_of_toNat_eq
  simp

theorem payloadByte_of_getElem? {s : State} {b : Byte} (hok : s.result = .ok) (hkind : s.decKind = some .read)
    (hidx : s.pidx.toNat < s.decN.toNat) (hb : s.rx[4 + s.pidx.toNat]? = some b) : payloadByte s = b := by
  rw [payloadByte, if_pos ((payloadValid_iff s).mpr ⟨hok, hkind, hidx⟩), byteAt, hb, Option.getD_some]

/-- Settles O23: the two cases of `payloadByte`; an accepted read holds the byte that the first one reads. -/
theorem payloadReadEffect : Obligations.PayloadReadEffect := by
  intro s d hinv
  rw [← pidx_add_one]
  refine ⟨decode_rdPayload d, fun hok hkind hidx => ?_, fun hnot => ?_⟩
  · have hneed := hinv hok hkind
    have hb := List.getElem?_eq_getElem (l := s.rx) (i := 4 + s.pidx.toNat) (by omega)
    exact ⟨_, hb, by rw [← payloadByte_of_getElem? hok hkind hidx hb]; rfl⟩
  · have hbyte : payloadByte s = 0x00 := if_neg (mt (payloadValid_iff s).mp hnot)
    rw [← hbyte]
    rfl

/-- Two words: the second runs from where the first ended. -/
theorem runWords_pair {w : BusWord} {i : Instr} {s t : State} (hd : decodeBus w = i) (v : BusWord)
    (hpin : s.resetPin = false) (hx : exec i s = .next t) : runWords [w, v] s = exec (decodeBus v) t := by
  obtain ⟨-, -, hpin'⟩ := exec_frame i s t hx
  rw [runWords_cons_of_decode hd [v] hpin hx, runWords_singleton v t (hpin'.trans hpin)]

/-- Where a DEC_END has just run it changes nothing: it writes no operand of its own checks (R163). -/
theorem runWords_decEnd_twice {w : BusWord} (hw : decodeBus w = .decEndRead ∨ decodeBus w = .decEndWrite) (s : State)
    (hpin : s.resetPin = false) : runWords [w, w] s = runWords [w] s := by
  obtain ⟨kind, n, hx⟩ := exec_decEnd hw s
  rw [runWords_pair rfl w hpin (hx s rfl), runWords_singleton w s hpin, hx s rfl]
  exact hx { endDecode kind n s with rdata := none } rfl

/-- Settles O21: `runWords_decEnd_twice` for both kinds, and SOFT_RESET leaves the empty response. -/
theorem decEndIsRepeatable : Obligations.DecEndIsRepeatable := by
  intro s hpin
  refine ⟨runWords_decEnd_twice (.inl rfl) s hpin, runWords_decEnd_twice (.inr rfl) s hpin, ?_, ?_⟩
  · exact ⟨_, runWords_pair (i := .softReset) rfl 0x1006 hpin rfl, rfl⟩
  · exact ⟨_, runWords_pair (i := .softReset) rfl 0x1007 hpin rfl, rfl⟩

theorem pushRxBytes_rxOvf (bytes : List Byte) (s : State) (h : s.rxOvf = true) :
    (pushRxBytes s bytes).rxOvf = true := by
  induction bytes generalizing s with
  | nil => exact h
  | cons d ds ih => exact ih (pushRx s d) (by simp [h])

/-- A dropped byte is remembered until the next response or a reset (R158). -/
theorem exec_keeps_rxOvf {i : Instr} {s t : State} (hs : s.rxOvf = true) (hstart : i ≠ .decStart)
    (hreset : i ≠ .softReset) (h : exec i s = .next t) : t.rxOvf = true := by
  cases i
  case decStart => exact absurd rfl hstart
  case softReset => exact absurd rfl hreset
  case wrRxDin d => cases h; exact pushRxBytes_rxOvf [d] s hs
  case respAck rest => cases h; exact pushRxBytes_rxOvf (0x02 :: rest) s hs
  case rdTxDout =>
    simp only [exec] at h
    rcases execRdTxDout_cases s with ⟨-, he⟩ | ⟨-, he⟩ <;> rw [he] at h <;> cases h <;> exact hs
  all_goals cases h; exact hs

/-- Settles O22: an overflowed buffer is full, so the response is not empty, and its CRC check has failed. -/
theorem overflowedResponseIsNeverAccepted : Obligations.OverflowedResponseIsNeverAccepted := by
  refine ⟨fun s i hinv hovf hi => ?_, fun s t i hovf hstart hreset h => exec_keeps_rxOvf hovf hstart hreset h⟩
  obtain ⟨kind, n, hx⟩ := exec_decEnd hi s
  obtain ⟨⟨hcap, -⟩, -, ⟨-, hfull⟩, -⟩ := hinv
  have hne : s.rx ≠ [] := List.ne_nil_of_length_pos (by have := hfull hovf; omega)
  obtain ⟨hlen, hcrc⟩ := checks_of_overflow kind n s.rx
  rw [← hovf] at hlen hcrc
  refine ⟨_, hx s rfl, hlen, hcrc, fun hprio hhead => ?_, fun h => ?_⟩
  · have hack := Bool.eq_false_iff.mpr (mt (checks_ackOk_head kind n s.rx s.rxOvf).mp hhead)
    exact (verdict_of_ne_nil _ hne hcrc hack).trans (congrArg (verdictOf false false) hprio)
  · rcases h with hprio | hhead
    · rw [← verdictOf_crcFirst, ← hprio]
      exact verdict_of_ne_nil _ hne hcrc rfl
    · exact verdict_of_ne_nil _ hne hcrc ((checks_ackOk_head kind n s.rx s.rxOvf).mpr hhead)

end Sys2Proof.Machine
end

section
/-! Whole responses: what their run leaves, which of them DEC_END accepts, and the payload read back
(42_decoder.md R159, R171, R172). -/

namespace Sys2Proof.Machine

theorem runWords_param_decEndRead (s : State) (n : Byte) (hpin : s.resetPin = false) :
    runWords [wordOf 0x1700 n, 0x1006] s = .next { endDecode .read n { s with param := n } with rdata := none } :=
  runWords_pair (t := { s with param := n, rdata := none }) (decode_wrParam n) 0x1006 hpin rfl

/-- The run of one read response: DEC_START, its bytes, the expected count and DEC_END_READ. The DEC_END overwrites all
that the bytes left beside rx and rx_ovf (R155, R157, R161). -/
theorem runWords_readResponse (s : State) (bytes : List Byte) (n : Byte) (hpin : s.resetPin = false)
    (hcap : bytes.length ≤ s.cfg.rxCap) :
    runWords ((0x1005 : BusWord) :: bytes.map (wordOf 0x1800) ++ [wordOf 0x1700 n, 0x1006]) s
      = .next (endDecode .read n { s with rx := bytes, rxOvf := false, param := n, rdata := none }) := by
  have hbytes := receivedBytesAreStoredInOrder s bytes hpin
  rw [List.take_of_length_le hcap, decide_eq_false (Nat.not_lt.mpr hcap)] at hbytes
  refine (runWords_append _ _ s _ hpin hbytes).trans ?_
  exact runWords_param_decEndRead _ n hpin

theorem runWords_payload_next (s : State) (hpin : s.resetPin = false) :
    runWords [0x0C00] s = .next { s with pidx := s.pidx + 1, rdata := some (payloadByte s) } :=
  runWords_singleton 0x0C00 s hpin

/-- Reads of PAYLOAD from index 0, one after the other (R166). -/
theorem runWords_payload (s : State) (i : Nat) (hpin : s.resetPin = false) :
    runWords (List.replicate (i + 1) 0x0C00) { s with pidx := 0x00 } = .next { s with
      pidx := BitVec.ofNat 8 (i + 1), rdata := some (payloadByte { s with pidx := BitVec.ofNat 8 i }) } := by
  induction i with
  | zero => exact runWords_payload_next { s with pidx := 0x00 } hpin
  | succ i ih =>
    rw [List.replicate_succ', runWords_append _ _ { s with pidx := 0x00 } _ hpin ih, BitVec.ofNat_add (i + 1) 1]
    exact runWords_payload_next _ hpin

/-- After a DEC_END that accepts a read, the reads of PAYLOAD return the payload in order (R165, R166). -/
theorem runWords_payload_of_ok (s : State) (i : Nat) (b : Byte) (hpin : s.resetPin = false) (hstart : s.pidx = 0x00)
    (hok : s.result = .ok) (hkind : s.decKind = some .read) (hi : i < s.decN.toNat) (hb : s.rx[4 + i]? = some b) :
    ∃ u, runWords (List.replicate (i + 1) 0x0C00) s = .next u ∧ u.rdata = some b := by
  have hs : { s with pidx := 0x00 } = s := by rw [← hstart]
  have hidx : (BitVec.ofNat 8 i).toNat = i := by
    have := s.decN.isLt
    rw [BitVec.toNat_ofNat]
    omega
  have hrun := runWords_payload s i hpin
  rw [hs] at hrun
  refine ⟨_, hrun, congrArg some (payloadByte_of_getElem? hok hkind ?_ ?_)⟩
  · rwa [hidx]
  · rwa [hidx]

/-- A response to a read that holds the expected payload and its own CRC is accepted (R159, R171). -/
theorem verdict_of_rightCrc (prio : ErrPriority) (b1 n : Byte) (body : List Byte) (hlen : 2 + n.toNat ≤ body.length) :
    verdict prio .read n (0x02 :: b1 :: (body ++ [hi (crc16 body), lo (crc16 body)])) false = .ok := by
  refine (verdict_ok_iff _ _ _ _ _).mpr ⟨rfl, (checks_crcOk_split _ _ _ _ _ _ _ _).mpr ⟨?_, (pair_hi_lo _).symm⟩⟩
  rw [checks_lenOk, needLength]
  simp; omega

/-- Settles O25: both checks pass on the response, and its payload stands behind the four header bytes. -/
theorem validReadResponseYieldsItsPayload : Obligations.ValidReadResponseYieldsItsPayload := by
  intro s b1 b2 b3 P hpin hP hcap
  have hn : (BitVec.ofNat 8 P.length).toNat = P.length := by rw [BitVec.toNat_ofNat]; omega
  have hok := verdict_of_rightCrc s.cfg.errPriority b1 (BitVec.ofNat 8 P.length) ([b2, b3] ++ P) (by simp; omega)
  refine ⟨_, runWords_readResponse s _ _ hpin (by simp; omega), hok, fun i b hb => ?_⟩
  have hi : i < P.length := (List.getElem?_eq_some_iff.mp hb).1
  refine runWords_payload_of_ok _ i b hpin rfl hok rfl ?_ ?_
  · rw [endDecode_decN, hn]
    exact hi
  · rw [Nat.add_comm]
    exact (List.getElem?_append_left hi).trans hb

/-- A response whose last two bytes are not the CRC of its covered bytes is rejected, whatever the expected count and
the priority (R160, R172). -/
theorem runWords_wrongCrc (s : State) (b1 ch cl n : Byte) (body : List Byte) (hpin : s.resetPin = false)
    (hcap : 4 + body.length ≤ s.cfg.rxCap) (hcrc : pair ch cl ≠ crc16 body) :
    ∃ t, runWords ((0x1005 : BusWord) :: (0x02 :: b1 :: (body ++ [ch, cl])).map (wordOf 0x1800)
        ++ [wordOf 0x1700 n, 0x1006]) s = .next t ∧ t.crcOk = false ∧ t.result = .checksumError := by
  have hfail : (checks .read n (0x02 :: b1 :: (body ++ [ch, cl])) false).crcOk = false := by
    refine Bool.eq_false_iff.mpr fun hpass => ?_
    obtain ⟨-, heq⟩ := (checks_crcOk_split .read n 0x02 b1 ch cl body false).mp hpass
    exact hcrc heq.symm
  exact ⟨_, runWords_readResponse s _ n hpin (by simp; omega), hfail,
    verdict_of_ne_nil _ (List.cons_ne_nil _ _) hfail rfl⟩

/-- Settles O26: neither another trailing pair nor a flipped bit of the covered bytes leaves the pair their CRC. -/
theorem corruptedResponseIsRejected : Obligations.CorruptedResponseIsRejected := by
  intro s b1 b2 b3 P hpin _ hcap
  have hlen : ([b2, b3] ++ P).length = 2 + P.length := by simp; omega
  refine ⟨fun ch cl hne => ?_, fun i k hi hk => ?_⟩
  · exact runWords_wrongCrc s b1 ch cl _ ([b2, b3] ++ P) hpin (by omega) hne
  · refine runWords_wrongCrc s b1 _ _ _ (([b2, b3] ++ P).set i _) hpin (by rw [List.length_set]; omega) ?_
    rw [pair_hi_lo]
    exact (crcDetectsEverySingleBitFlip ([b2, b3] ++ P) i k hi hk).symm

/-- R103 property 4: the CRC over a list and its own checksum is 0, and stays 0 over a zero byte. -/
theorem pair_eq_crc16_append_zero {body : List Byte} {ch cl : Byte} (h : crc16 body = pair ch cl) :
    pair cl 0x00 = crc16 (body ++ [ch]) := by
  have hzero : crc16 (body ++ [ch, cl]) = 0x0000 := (crcVerifiesExactlyItsOwnChecksum body ch cl).mpr h.symm
  refine (crcVerifiesExactlyItsOwnChecksum (body ++ [ch]) cl 0x00).mp ?_
  calc crc16 ((body ++ [ch]) ++ [cl, 0x00])
      = crcStep (crc16 (body ++ [ch, cl])) 0x00 := by simp [crc16]
    _ = 0x0000 := by rw [hzero]; decide

/-- An accepted response stays accepted with a zero byte behind it (end of R159). -/
theorem verdict_ok_append_zero {prio : ErrPriority} {kind : FrameKind} {n : Byte} {rx : List Byte} {ovf : Bool}
    (h : verdict prio kind n rx ovf = .ok) : verdict prio kind n (rx ++ [0x00]) ovf = .ok := by
  obtain ⟨hack, hcrc⟩ := (verdict_ok_iff prio kind n rx ovf).mp h
  obtain ⟨tail, htail⟩ := (checks_ackOk kind n rx ovf).mp hack
  obtain ⟨hlen, h0, h1, body, ch, cl, rfl, hbody⟩ := (checks_crcOk kind n rx ovf).mp hcrc
  obtain ⟨hovf, hneed⟩ := (checks_lenOk _ _ _ _).mp hlen
  have hack' : (checks kind n (h0 :: h1 :: (body ++ [ch, cl]) ++ [0x00]) ovf).ackOk = true :=
    (checks_ackOk _ _ _ _).mpr ⟨tail ++ [0x00], by rw [htail, List.cons_append]⟩
  have hlen' : (checks kind n (h0 :: h1 :: (body ++ [ch, cl]) ++ [0x00]) ovf).lenOk = true := by
    refine (checks_lenOk _ _ _ _).mpr ⟨hovf, ?_⟩
    rw [List.length_append]
    exact hneed.trans (Nat.le_add_right _ _)
  have hsplit : h0 :: h1 :: (body ++ [ch, cl]) ++ [0x00] = h0 :: h1 :: ((body ++ [ch]) ++ [cl, 0x00]) := by simp
  exact (verdict_ok_iff _ _ _ _ _).mpr ⟨hack', (checks_crcOk _ _ _ _).mpr
    ⟨hlen', h0, h1, body ++ [ch], cl, 0x00, hsplit, (pair_eq_crc16_append_zero hbody).symm⟩⟩

/-- Settles O28: the stored byte changes nothing that DEC_END looks at but the response. -/
theorem appendedZeroByteIsStillAccepted : Obligations.AppendedZeroByteIsStillAccepted := by
  intro s t w hpin hroom hw hrun hok
  have hi : decodeBus w = .decEndRead ∨ decodeBus w = .decEndWrite := by
    rcases hw with rfl | rfl
    · exact .inl rfl
    · exact .inr rfl
  obtain ⟨kind, n, hx⟩ := exec_decEnd hi s
  rw [runWords_singleton w s hpin, hx s rfl] at hrun
  cases hrun
  refine ⟨{ endDecode kind n (clearVerdict { s with rx := s.rx ++ [0x00] }) with rdata := none }, ?_,
    verdict_ok_append_zero hok, rfl⟩
  exact (runWords_pair (i := .wrRxDin 0x00) rfl w hpin (exec_wrRxDin_of_lt 0x00 hroom)).trans (hx _ rfl)

end Sys2Proof.Machine
end

section
/-! The control commands and the accesses without an effect (43_control.md R190-R196). -/

namespace Sys2Proof.Machine

/-- The ignored addresses as the two ranges that R195 lists. -/
theorem ignoredWriteAddr_iff : ∀ a : RegAddr,
    ignoredWriteAddr a = true ↔ (1 ≤ a.toNat ∧ a.toNat ≤ 3) ∨ 10 ≤ a.toNat := by
  decide

theorem zeroReadAddr_iff (a : RegAddr) : zeroReadAddr a = true ↔ a = 0x0 ∨ a = 0x4 ∨ a = 0x8 ∨ a = 0xF := by
  simp [zeroReadAddr, or_assoc]

/-- Settles O29: a reserved code, an ignored write and a zero read decode by the range their operand lies in; the other
words are single, and every effect is the instruction's own equation. -/
theorem controlFamilyEffects : Obligations.ControlFamilyEffects := by
  refine ⟨fun s => ⟨rfl, rfl⟩, fun s code hcode => ⟨decode_reserved code hcode, rfl⟩, fun s => ⟨rfl, rfl⟩,
    fun s => ⟨rfl, rfl⟩, fun s a d ha => ⟨?_, rfl⟩, fun s a d ha => ⟨?_, rfl⟩⟩
  · exact (decode_write a d).trans (decodeWrite_ignored a d ((ignoredWriteAddr_iff a).mpr ha))
  · exact (decode_read a d).trans (decodeRead_zero a ((zeroReadAddr_iff a).mpr ha))

end Sys2Proof.Machine
end

section
/-! The host's exchange up to the read of STATUS, phase by phase (60_exceptions.md R224, R225; log 12). -/

namespace Sys2Proof.Machine

/-! Runs of words and lists of reads. -/

theorem runWords_append_next {ws vs : List BusWord} {s t u : State} (hpin : s.resetPin = false)
    (h : runWords ws s = .next t) (h' : runWords vs t = .next u) : runWords (ws ++ vs) s = .next u :=
  (runWords_append ws vs s t hpin h).trans h'

theorem writeWords_singleton {w : BusWord} {s t : State} (hpin : s.resetPin = false)
    (hx : exec (decodeBus w) s = .next t) : writeWords [w] s = some t :=
  writeWords_of_run _ _ _ (runWords_cons w [] s t hpin hx)

/-- Reads move the block as the run of their words does. -/
theorem runWords_of_readWords {ws : List BusWord} {s t : State} {bs : List Byte} (hpin : s.resetPin = false)
    (h : readWords ws s = some (bs, t)) : runWords ws s = .next t := by
  induction ws generalizing s bs with
  | nil => cases h; rfl
  | cons w ws ih =>
    obtain ⟨u, hx⟩ := exec_answers (decodeBus w) s
    obtain ⟨-, -, hpin'⟩ := exec_frame _ s u hx
    rw [readWords, writeWords_singleton hpin hx] at h
    simp only at h
    split at h
    · rename_i hrest
      cases h
      rw [runWords_cons w ws s u hpin hx]
      exact ih (hpin'.trans hpin) hrest
    · cases h

/-- One read that answers a byte, and the reads after it. -/
theorem readWords_cons_some {w : BusWord} {i : Instr} {s t u : State} {b : Byte} {ws : List BusWord} {bs : List Byte}
    (hd : decodeBus w = i) (hpin : s.resetPin = false) (hx : exec i s = .next t) (hb : t.rdata = some b)
    (hrest : readWords ws t = some (bs, u)) : readWords (w :: ws) s = some (b :: bs, u) := by
  rw [readWords_cons w ws s t b hpin (by rw [hd, hx]) hb, hrest]
  rfl

theorem drop_eq_cons_of_getElem? {l : List Byte} {i : Nat} {b : Byte} (h : l[i]? = some b) :
    l.drop i = b :: l.drop (i + 1) := by
  obtain ⟨hi, rfl⟩ := List.getElem?_eq_some_iff.mp h
  exact List.drop_eq_getElem_cons hi

/-! Idle and Sending. -/

/-- The OP byte of the exchange's command frame (30_encoding.md R82). -/
def Exchange.opcode (x : Exchange) : Byte :=
  match x.kind with
  | .read => 0x07
  | .write => 0x08

/-- The block after Sending; its data byte is that of the last read. -/
def Exchange.sentBlock (x : Exchange) (s : State) : State :=
  { encodeFrame x.opcode (setOperands x.addr x.param s) with txIdx := 9 }

theorem Exchange.sentBlock_tx (x : Exchange) (s : State) :
    (x.sentBlock s).tx.toList = commandFrameBytes x.opcode x.addr x.param := by
  rw [← pair_hi_lo x.addr]
  exact (commandFrame_toList_eq_bytes x.opcode (hi x.addr) (lo x.addr) x.param).trans (by simp)

theorem Exchange.runWords_idleWords (x : Exchange) (s : State) (hpin : s.resetPin = false) :
    runWords x.idleWords s = .next { encodeFrame x.opcode (setOperands x.addr x.param s) with rdata := none } := by
  refine (runWords_operands x.addr x.param (busWrite 0x0 x.encodeCode) s hpin).trans ?_
  rw [Exchange.encodeCode, Exchange.opcode]
  cases x.kind <;> rfl

/-- The reads of TX_DOUT that are left return the bytes that are left (41_encoder.md R125). -/
theorem readWords_txDout (k : Nat) (s : State) (hpin : s.resetPin = false) (hlen : s.txLen = 9)
    (hidx : s.txIdx + k = 9) : ∃ r, readWords (List.replicate k (busRead 0xA)) s
      = some (s.tx.toList.drop s.txIdx, { s with txIdx := 9, rdata := r }) := by
  induction k generalizing s with
  | zero =>
    have hend : s.txIdx = 9 := hidx
    have hs : { s with txIdx := 9 } = s := by rw [← hend]
    have hdrop : s.tx.toList.drop s.txIdx = [] := List.drop_eq_nil_of_le (by simp [hend])
    exact ⟨s.rdata, by rw [hdrop, hs]; rfl⟩
  | succ k ih =>
    have hlt : s.txIdx < 9 := by omega
    obtain ⟨r, hrest⟩ := ih { s with txIdx := s.txIdx + 1, rdata := some (txByte s) } hpin hlen
      (show s.txIdx + 1 + k = 9 by omega)
    refine ⟨r, ?_⟩
    rw [drop_eq_cons_of_getElem? (tx_getElem?_txIdx hlt)]
    exact readWords_cons_some (decode_busRead 0xA) hpin (exec_rdTxDout_of_lt (by omega)) rfl hrest

theorem Exchange.readWords_txDoutReads (x : Exchange) (s : State) (hpin : s.resetPin = false) :
    ∃ r, readWords txDoutReads { encodeFrame x.opcode (setOperands x.addr x.param s) with rdata := none }
      = some (commandFrameBytes x.opcode x.addr x.param, { x.sentBlock s with rdata := r }) := by
  rw [← x.sentBlock_tx s]
  exact readWords_txDout 9 _ hpin rfl rfl

theorem Exchange.send_eq (x : Exchange) (s : State) (hpin : s.resetPin = false) :
    ∃ r, x.send s = some (commandFrameBytes x.opcode x.addr x.param, { x.sentBlock s with rdata := r }) := by
  rw [Exchange.send, writeWords_of_run _ _ _ (x.runWords_idleWords s hpin)]
  exact x.readWords_txDoutReads s hpin

theorem Exchange.runWords_sendWords (x : Exchange) (s : State) (hpin : s.resetPin = false) :
    ∃ r, runWords x.sendWords s = .next { x.sentBlock s with rdata := r } := by
  obtain ⟨r, hreads⟩ := x.readWords_txDoutReads s hpin
  exact ⟨r, runWords_append_next hpin (x.runWords_idleWords s hpin) (runWords_of_readWords hpin hreads)⟩

/-! Reading: the first attempt and the retry. -/

/-- The block after DEC_START and the bytes of a response, of which it stores what fits (42_decoder.md R155, R157). -/
def State.holding (s : State) (bytes : List Byte) : State :=
  { startDecode s with rx := bytes.take s.cfg.rxCap, rxOvf := decide (s.cfg.rxCap < bytes.length) }

theorem Exchange.runWords_firstWords (x : Exchange) (s : State) (hpin : s.resetPin = false) :
    runWords x.firstWords s = .next { s.holding x.first with rdata := none } :=
  receivedBytesAreStoredInOrder s x.first hpin

/-- The bytes of the retry reach an empty buffer. -/
theorem runWords_rxWords_holding (s : State) (bytes : List Byte) (r : Option Byte) (hpin : s.resetPin = false) :
    ∃ r', runWords (rxWords bytes) { s.holding [] with rdata := r } = .next { s.holding bytes with rdata := r' } := by
  cases bytes with
  | nil => exact ⟨r, rfl⟩
  | cons d ds =>
    refine ⟨none, (runWords_rxDin_cons d ds { s.holding [] with rdata := r } hpin).trans ?_⟩
    rw [pushRxBytes_eq (d :: ds) _ (List.cons_ne_nil d ds) (by simp [State.holding])]
    simp [noData, State.holding, startDecode, clearVerdict]

theorem readWords_rxLenReads (s : State) (hpin : s.resetPin = false) :
    readWords rxLenReads s = some ([lo (rxLen s), hi (rxLen s)], { s with rdata := some (hi (rxLen s)) }) :=
  readWords_cons_some (t := { s with rdata := some (lo (rxLen s)) }) (decode_busRead 0xD) hpin rfl rfl
    (readWords_cons_some (decode_busRead 0xE) hpin rfl rfl rfl)

/-- RXLEN has sixteen bits, which the length of a full buffer of the largest RX_CAP still fits (10_state.md R40). -/
theorem rxLen_bytes_zero_iff {s : State} (h : s.rx.length ≤ 65535) :
    (lo (rxLen s) = 0x00 ∧ hi (rxLen s) = 0x00) ↔ s.rx = [] := by
  constructor
  · rintro ⟨hlo, hhi⟩
    have hzero : rxLen s = 0x0000 := by
      rw [← pair_hi_lo (rxLen s), hlo, hhi]
      rfl
    have hnum : s.rx.length % 2 ^ 16 = 0 := congrArg BitVec.toNat hzero
    exact List.length_eq_zero_iff.mp (by omega)
  · intro hnil
    rw [rxLen, hnil]
    decide

/-- Of a response of at least one byte, RXLEN shows at least one byte, for every RX_CAP in range (00_scope.md R11). -/
theorem rxLen_holding_zero_iff (s : State) (bytes : List Byte) (r : Option Byte) (hcfg : s.cfg.wf) :
    (lo (rxLen { s.holding bytes with rdata := r }) = 0x00 ∧ hi (rxLen { s.holding bytes with rdata := r }) = 0x00)
      ↔ bytes = [] := by
  obtain ⟨hmin, hmax⟩ := hcfg
  have hlen : (bytes.take s.cfg.rxCap).length ≤ 65535 := (List.length_take_le _ _).trans hmax
  have hcap : s.cfg.rxCap ≠ 0 := by omega
  rw [rxLen_bytes_zero_iff hlen]
  simp [State.holding, hcap]

theorem Exchange.receive_eq (x : Exchange) (s : State) (hpin : s.resetPin = false) (hcfg : s.cfg.wf) :
    ∃ r, x.receive s = some (x.response, { s.holding x.response with rdata := r }) := by
  have hretry := rxLen_holding_zero_iff s x.first none hcfg
  have hfirst := writeWords_of_run _ _ _ (x.runWords_firstWords s hpin)
  have hreads := readWords_rxLenReads { s.holding x.first with rdata := none } hpin
  rw [Exchange.receive, hfirst]
  simp only [hreads, hretry]
  by_cases hnil : x.first = []
  · have hresp : x.response = x.retry := by simp [Exchange.response, hnil]
    obtain ⟨r, hrun⟩ := runWords_rxWords_holding s x.retry
      (some (hi (rxLen { s.holding [] with rdata := none }))) hpin
    refine ⟨r, ?_⟩
    rw [if_pos hnil, hnil, writeWords_of_run _ _ _ hrun, hresp]
    rfl
  · have hresp : x.response = x.first := by simp [Exchange.response, hnil]
    exact ⟨_, by rw [if_neg hnil, hresp]⟩

theorem Exchange.runWords_receiveWords (x : Exchange) (s : State) (hpin : s.resetPin = false) :
    ∃ r, runWords x.receiveWords s = .next { s.holding x.response with rdata := r } := by
  have hlen := runWords_append_next hpin (x.runWords_firstWords s hpin)
    (runWords_of_readWords hpin (readWords_rxLenReads { s.holding x.first with rdata := none } hpin))
  rw [Exchange.receiveWords, Exchange.response]
  cases hfirst : x.first with
  | nil =>
    rw [hfirst] at hlen
    obtain ⟨r, hrun⟩ := runWords_rxWords_holding s x.retry _ hpin
    exact ⟨r, runWords_append_next hpin hlen hrun⟩
  | cons d ds =>
    rw [hfirst] at hlen
    exact ⟨_, runWords_append_next hpin hlen rfl⟩

/-! Validating. -/

/-- The count N that the exchange's DEC_END expects (42_decoder.md R161, R162). -/
def Exchange.expected (x : Exchange) : Byte :=
  match x.kind with
  | .read => x.param
  | .write => 0x00

/-- DEC_END and the read of STATUS. -/
def Exchange.judged (x : Exchange) (s : State) : State :=
  { endDecode x.kind x.expected s with rdata := some (statusByte (endDecode x.kind x.expected s)) }

theorem Exchange.exec_decEndWord (x : Exchange) (s : State) (hparam : s.param = x.param) :
    exec (decodeBus x.decEndWord) s = .next { endDecode x.kind x.expected s with rdata := none } := by
  rw [Exchange.decEndWord, Exchange.judgeCode, Exchange.expected, ← hparam]
  cases x.kind <;> rfl

theorem Exchange.runWords_judgeWords (x : Exchange) (s : State) (hpin : s.resetPin = false)
    (hparam : s.param = x.param) : runWords x.judgeWords s = .next (x.judged s) :=
  runWords_pair (t := { endDecode x.kind x.expected s with rdata := none }) rfl statusRead hpin
    (x.exec_decEndWord s hparam)

theorem Exchange.judge_eq (x : Exchange) (s : State) (hpin : s.resetPin = false) (hparam : s.param = x.param) :
    x.judge s = some (statusByte (x.judged s), x.judged s) := by
  have hend := writeWords_singleton hpin (x.exec_decEndWord s hparam)
  have hstatus : readWords [statusRead] { endDecode x.kind x.expected s with rdata := none }
      = some ([statusByte (x.judged s)], x.judged s) :=
    readWords_cons_some (decode_busRead 0x1) hpin rfl rfl rfl
  rw [Exchange.judge, hend]
  simp only [hstatus]

/-- The block after the read of STATUS. -/
def Exchange.judgedBlock (x : Exchange) (s : State) : State := x.judged ((x.sentBlock s).holding x.response)

theorem Exchange.runWords_words (x : Exchange) (s : State) (hpin : s.resetPin = false) :
    runWords x.words s = .next (x.judgedBlock s) := by
  obtain ⟨r, hsend⟩ := x.runWords_sendWords s hpin
  obtain ⟨r', hreceive⟩ := x.runWords_receiveWords { x.sentBlock s with rdata := r } hpin
  exact runWords_append_next hpin (runWords_append_next hpin hsend hreceive) (x.runWords_judgeWords _ hpin rfl)

theorem Exchange.perform_eq_finish (x : Exchange) (s : State) (hpin : s.resetPin = false) (hcfg : s.cfg.wf) :
    x.perform s = x.finish (commandFrameBytes x.opcode x.addr x.param) x.response (statusByte (x.judgedBlock s))
      (x.judgedBlock s) := by
  obtain ⟨r, hsend⟩ := x.send_eq s hpin
  obtain ⟨r', hreceive⟩ := x.receive_eq { x.sentBlock s with rdata := r } hpin hcfg
  have hjudge := x.judge_eq { { x.sentBlock s with rdata := r }.holding x.response with rdata := r' } hpin rfl
  simp only [Exchange.perform, hsend, hreceive, hjudge]
  rfl

/-- Settles O52: the run of the three phases ends in `judgedBlock`, whose verdict is that of the bytes it stored. -/
theorem hostExchangeEndsInTheVerdictOnItsResponse : Obligations.HostExchangeEndsInTheVerdictOnItsResponse := by
  intro s x hpin hcap
  have hrx : (x.judgedBlock s).rx = x.response := List.take_of_length_le hcap
  have hresult : (x.judgedBlock s).result = verdict s.cfg.errPriority x.kind x.expected x.response false := by
    rw [← decide_eq_false (Nat.not_lt.mpr hcap)]
    exact congrArg (verdict s.cfg.errPriority x.kind x.expected · _) hrx
  refine ⟨x.judgedBlock s, x.runWords_words s hpin, hresult, hrx, rfl, rfl, rfl, rfl, fun hfirst hretry => ?_⟩
  have hnil : x.response = [] := by simp [Exchange.response, hfirst, hretry]
  rw [hresult, hnil, verdict_nil]

end Sys2Proof.Machine
end

section
/-! How the host's exchange ends: the branch on STATUS and the reads of the payload (60_exceptions.md R224; log 12). -/

namespace Sys2Proof.Machine

theorem branchBits_toNat (b : Byte) : (b.extractLsb' 0 2).toNat = b.toNat % 4 := by
  simp

/-- The end of an exchange whose STATUS shows a verdict. -/
def endingOf : Verdict → Option ExchangeEnd
  | .none => none
  | .ok => some .success
  | .noResponse => some .noResponse
  | .checksumError => some .checksumError

theorem endingOf_eq_some_iff (v : Verdict) (e : ExchangeEnd) :
    endingOf v = some e ↔
      (e = .success ∧ v = .ok) ∨ (e = .noResponse ∧ v = .noResponse) ∨ (e = .checksumError ∧ v = .checksumError) := by
  cases v <;> cases e <;> simp [endingOf]

theorem exists_endingOf {v : Verdict} (h : v ≠ .none) : ∃ e, endingOf v = some e := by
  cases v with
  | none => exact absurd rfl h
  | ok | noResponse | checksumError => exact ⟨_, rfl⟩

/-- The two lowest bits of STATUS are RESULT (10_state.md R29, R30). -/
theorem statusByte_mod_four (s : State) : (statusByte s).toNat % 4 = (encVerdict s.result).toNat := by
  rw [statusByte, flags_toNat]
  omega

theorem branchOf_statusByte (s : State) : branchOf (statusByte s) = endingOf s.result := by
  rw [branchOf, branchBits_toNat, statusByte_mod_four]
  cases s.result <;> rfl

/-- The reads of PAYLOAD from an index on return the payload bytes from there (42_decoder.md R165, R166). -/
theorem readWords_payload (k : Nat) (s : State) (hpin : s.resetPin = false) (hok : s.result = .ok)
    (hkind : s.decKind = some .read) (hneed : 6 + s.decN.toNat ≤ s.rx.length) (hk : s.pidx.toNat + k ≤ s.decN.toNat) :
    ∃ p r, readWords (List.replicate k (busRead 0xC)) s
      = some ((s.rx.drop (4 + s.pidx.toNat)).take k, { s with pidx := p, rdata := r }) := by
  induction k generalizing s with
  | zero => exact ⟨s.pidx, s.rdata, rfl⟩
  | succ k ih =>
    have hnext : (s.pidx + 1).toNat = s.pidx.toNat + 1 := by
      rw [pidx_add_one, BitVec.toNat_ofNat]
      omega
    have hb := List.getElem?_eq_getElem (l := s.rx) (i := 4 + s.pidx.toNat) (by omega)
    have hbyte := payloadByte_of_getElem? hok hkind (by omega) hb
    obtain ⟨p, r, hrest⟩ := ih { s with pidx := s.pidx + 1, rdata := some (payloadByte s) } hpin hok hkind hneed
      (show (s.pidx + 1).toNat + k ≤ s.decN.toNat by omega)
    refine ⟨p, r, ?_⟩
    rw [drop_eq_cons_of_getElem? hb, List.take_succ_cons, ← hbyte]
    rw [hnext] at hrest
    exact readWords_cons_some (decode_busRead 0xC) hpin rfl rfl hrest

/-- An accepted response was stored whole, and is long enough (42_decoder.md R158, R159). -/
theorem Exchange.judgedBlock_of_ok (x : Exchange) (s : State) (h : (x.judgedBlock s).result = .ok) :
    (x.judgedBlock s).rx = x.response ∧ needLength x.kind x.expected ≤ x.response.length := by
  obtain ⟨hcrc, -⟩ := verdict_ok _ _ _ _ _ h
  obtain ⟨hovf, hlen⟩ := (checks_lenOk _ _ _ _).mp (checks_crcOk_lenOk _ _ _ _ hcrc)
  have hrx : (x.judgedBlock s).rx = x.response := List.take_of_length_le (Nat.not_lt.mp (of_decide_eq_false hovf))
  exact ⟨hrx, hlen.trans_eq (congrArg List.length hrx)⟩

theorem Exchange.response_length_of_read {x : Exchange} {s : State} (hkind : x.kind = .read)
    (h : (x.judgedBlock s).result = .ok) : 6 + x.param.toNat ≤ x.response.length := by
  obtain ⟨-, hlen⟩ := x.judgedBlock_of_ok s h
  rwa [Exchange.expected, hkind] at hlen

theorem Exchange.payloadWords_eq_nil {x : Exchange} {e : ExchangeEnd} (h : e ≠ .success ∨ x.kind = .write) :
    x.payloadWords e = [] := by
  cases e with
  | success =>
    have hkind : x.kind = .write := h.resolve_left (fun hne => hne rfl)
    simp only [Exchange.payloadWords, hkind]
  | noResponse | checksumError => rfl

theorem Exchange.payloadWords_of_read {x : Exchange} (h : x.kind = .read) :
    x.payloadWords .success = List.replicate x.param.toNat (busRead 0xC) := by
  simp only [Exchange.payloadWords, h]

/-- On Success of a read the host reads the N response bytes from byte 4 (R224; 42_decoder.md R164, R165). -/
theorem Exchange.readWords_payloadWords (x : Exchange) (s : State) (hpin : s.resetPin = false) (hkind : x.kind = .read)
    (hok : (x.judgedBlock s).result = .ok) : ∃ p r, readWords (x.payloadWords .success) (x.judgedBlock s)
      = some ((x.response.drop 4).take x.param.toNat, { x.judgedBlock s with pidx := p, rdata := r }) := by
  obtain ⟨hrx, -⟩ := x.judgedBlock_of_ok s hok
  have hcount : (x.judgedBlock s).decN = x.param := by
    change x.expected = x.param
    rw [Exchange.expected, hkind]
  rw [payloadWords_of_read hkind, ← hrx]
  refine readWords_payload x.param.toNat (x.judgedBlock s) hpin hok (congrArg some hkind) ?_ ?_
  · rw [hcount, hrx]
    exact response_length_of_read hkind hok
  · rw [hcount]
    exact (Nat.zero_add _).le

/-- Beside the payload index and the data byte, the reads after the branch leave the block as the read of STATUS found
it. -/
theorem Exchange.perform_eq (x : Exchange) (s : State) (hpin : s.resetPin = false) (hcfg : s.cfg.wf) :
    ∃ e payload p r, x.perform s = some
        { ending := e, payload := payload, sent := commandFrameBytes x.opcode x.addr x.param, received := x.response,
          block := { x.judgedBlock s with pidx := p, rdata := r } }
      ∧ endingOf (x.judgedBlock s).result = some e
      ∧ (e = .success → x.kind = .read →
          payload = (x.response.drop 4).take x.param.toNat ∧ payload.length = x.param.toNat)
      ∧ (e ≠ .success ∨ x.kind = .write → payload = []) := by
  obtain ⟨e, he⟩ := exists_endingOf (v := (x.judgedBlock s).result) (verdict_ne_none _ _ _ _ _)
  have hbranch := (branchOf_statusByte (x.judgedBlock s)).trans he
  simp only [x.perform_eq_finish s hpin hcfg, Exchange.finish, hbranch]
  by_cases hread : e = .success ∧ x.kind = .read
  · obtain ⟨rfl, hkind⟩ := hread
    have hok : (x.judgedBlock s).result = .ok := by simpa using (endingOf_eq_some_iff _ _).mp he
    obtain ⟨p, r, hreads⟩ := x.readWords_payloadWords s hpin hkind hok
    have hlen := response_length_of_read hkind hok
    refine ⟨.success, _, p, r, by rw [hreads]; rfl, he, fun _ _ => ⟨rfl, by simp; omega⟩, fun h => ?_⟩
    exact absurd (hkind.symm.trans (h.resolve_left fun hne => hne rfl)) nofun
  · have hother : e ≠ .success ∨ x.kind = .write := by
      cases hkind : x.kind with
      | read => exact .inl fun hsuccess => hread ⟨hsuccess, hkind⟩
      | write => exact .inr rfl
    refine ⟨e, [], (x.judgedBlock s).pidx, (x.judgedBlock s).rdata, ?_, he, fun h h' => absurd ⟨h, h'⟩ hread,
      fun _ => rfl⟩
    rw [payloadWords_eq_nil hother]
    rfl

theorem Exchange.response_eq (x : Exchange) : x.response = if x.first = [] then x.retry else x.first := by
  simp only [Exchange.response, List.isEmpty_iff]

/-- Settles O53: the two bits of STATUS choose the branch, and `Exchange.perform_eq` says what the exchange ends in. -/
theorem exchangeEndsAsItsStatusSays : Obligations.ExchangeEndsAsItsStatusSays := by
  refine ⟨fun b => ?_, fun s x hpin hcfg => ?_⟩
  · rw [branchOf, branchBits_toNat]
    refine ⟨fun h => ?_, fun h => ?_, fun h => ?_, fun h => ?_⟩ <;> simp only [h]
  · obtain ⟨e, payload, p, r, hperform, hend, hread, hnone⟩ := x.perform_eq s hpin hcfg
    have hends := (endingOf_eq_some_iff _ e).mp hend
    refine ⟨_, hperform, rfl, x.response_eq, x.sentBlock_tx s, rfl, rfl, rfl, ?_, ?_, ?_, hread, hnone⟩
    all_goals rcases hends with ⟨rfl, hres⟩ | ⟨rfl, hres⟩ | ⟨rfl, hres⟩ <;> simp [hres]

end Sys2Proof.Machine
end

section
/-! The reset events and the reset input (70_reset_and_hazards.md R240; log 4). -/

namespace Sys2Proof.Machine

/-- What a reset of the block answers, whatever state it finds: of that state only the parameters, the reset input and
the host's list remain (R240). -/
theorem noData_resetBlock (s : State) :
    noData (resetBlock s)
      = .next { State.reset with cfg := s.cfg, resetPin := s.resetPin, pending := s.pending } := rfl

theorem noData_resetBlock_of_released {s : State} (hpin : s.resetPin = false) :
    noData (resetBlock s) = .next { State.reset with cfg := s.cfg, pending := s.pending } := by
  rw [noData_resetBlock, hpin]
  rfl

theorem releaseReset_of_released {s : State} (hpin : s.resetPin = false) : releaseReset s = noData s := by
  rw [releaseReset, ← hpin]

/-- Settles O31: power-on and SOFT_RESET both are `noData_resetBlock`, and assertion differs from them in the reset input
alone. -/
theorem everyResetLeavesTheSameBlock : Obligations.EveryResetLeavesTheSameBlock := by
  intro s rest hpin
  refine ⟨?powerOn, ?softReset, ?asserted, ?released, ?powerOnAsserted⟩
  case powerOn => exact noData_resetBlock_of_released (s := { s with pending := rest }) hpin
  case softReset =>
    calc step { s with pending := .issue (.bus 0x1009) :: rest }
        = exec .softReset { s with pending := rest } := step_of_issue _ (.bus 0x1009) .softReset rest rfl hpin rfl
      _ = _ := noData_resetBlock_of_released (s := { s with pending := rest }) hpin
  case asserted => rfl
  case released => exact releaseReset_of_released (s := { s with pending := rest }) hpin
  case powerOnAsserted => exact noData_resetBlock { s with pending := rest, resetPin := true }

/-- Settles O48: the step looks at the reset input before it decodes (93_implementation_defined.md I22). -/
theorem transactionDuringResetHasNoMove : Obligations.TransactionDuringResetHasNoMove := by
  intro s e rest hp hpin
  simp only [step, hp, hpin, if_true]

end Sys2Proof.Machine
end

section
/-! The codec never uses the CRC accumulator (70_reset_and_hazards.md R258; 41_encoder.md R121). -/

namespace Sys2Proof.Machine

theorem pushRx_withCrc (s : State) (d : Byte) (c : Half) :
    pushRx { s with crc := c } d = { pushRx s d with crc := c } := by
  unfold pushRx
  split <;> rfl

theorem pushRxBytes_withCrc (bytes : List Byte) (s : State) (c : Half) :
    pushRxBytes { s with crc := c } bytes = { pushRxBytes s bytes with crc := c } := by
  induction bytes generalizing s with
  | nil => rfl
  | cons d ds ih => rw [pushRxBytes, pushRx_withCrc, ih, pushRxBytes]

/-- Settles O9: the two reads of the accumulator are excluded, its three writers leave it apart from every other field,
and every other instruction carries it along. -/
theorem codecNeverSeesTheCrcAccumulator : Obligations.CodecNeverSeesTheCrcAccumulator := by
  intro s t i c hhi hlo h
  cases i
  case rdCrcHi => exact absurd rfl hhi
  case rdCrcLo => exact absurd rfl hlo
  case crcInit => cases h; exact ⟨0x0000, rfl⟩
  case softReset => cases h; exact ⟨0x0000, rfl⟩
  case wrCrcDin d => cases h; exact ⟨crcStep c d, rfl⟩
  case rdTxDout =>
    refine ⟨c, ?_⟩
    rcases Nat.lt_or_ge s.txIdx s.txLen with hleft | hend
    · cases (exec_rdTxDout_of_lt hleft).symm.trans h
      exact exec_rdTxDout_of_lt (s := { s with crc := c }) hleft
    · cases (exec_rdTxDout_of_le hend).symm.trans h
      exact exec_rdTxDout_of_le (s := { s with crc := c }) hend
  case wrRxDin d => cases h; exact ⟨c, congrArg noData (pushRx_withCrc s d c)⟩
  case respAck rest => cases h; exact ⟨c, congrArg noData (pushRxBytes_withCrc (0x02 :: rest) s c)⟩
  all_goals cases h; exact ⟨c, rfl⟩

end Sys2Proof.Machine
end
